-- ==== Sys2Proof/Word.lean ====
section
/-! DEFINITION. The machine's word types (spec/00_scope R6, R7): bytes of 8 bits, words of 16,
24-bit data and addresses, the 20-bit program counter. -/

namespace Sys2Proof

/-- A byte of memory, an 8-bit register (00_scope R6). -/
abbrev Byte := BitVec 8

/-- A register pair, a 16-bit datum. -/
abbrev Word := BitVec 16

/-- A 24-bit datum; every data address is one (20_memory R100). -/
abbrev Long := BitVec 24

/-- A program address (10_state R31). -/
abbrev PAddr := BitVec 20

end Sys2Proof
end

