-- ==== Sys2Proof/Config.lean ====
section
/-! DEFINITION. What a product or the host fixes: the parameters of 70_reset_and_hazards R930 (the three
operation codes of decision D15 among them), the record of what the CPU has exchanged with the host, and
the free values (opaque constants: nothing is known of them). -/

namespace Sys2Proof

/-- OPC_MOV_STBC, OPC_LOCATION, OPC_MOV_WDM: the first two bytes of the three instructions whose rows are
lost (30_encoding R194, D15). -/
structure Opcodes where
  movStbc : Byte × Byte
  location : Byte × Byte
  movWdm : Byte × Byte
deriving DecidableEq, Repr

/-- The defaults of R930. PRESUMED: the spec has them from general knowledge (log 25). -/
def Opcodes.default : Opcodes where
  movStbc := (0x09#8, 0xC0#8)
  location := (0x09#8, 0xC1#8)
  movWdm := (0x09#8, 0xC2#8)

/-- The parameters of R930, fixed for a run; `State` carries one. -/
structure Config where
  /-- ROM_END + 1; 0 on a ROM-less product (20_memory R114). -/
  romSize : Nat
  /-- RAM_START at LOCATION 0H (20_memory R110). -/
  ramStart : Nat
  /-- ExtMapped: the external addresses that answer, as inclusive ranges (20_memory R113). -/
  ext : List (Nat × Nat)
  /-- Bit `o` is set when the product has an SFR at offset `o` (20_memory R111). -/
  sfrMask : BitVec 256
  /-- SP_MASK (10_state R47). -/
  spMask : Long
  /-- STBC_ADDR and WDM_ADDR as SFR offsets (10_state R55). -/
  stbcOff : Byte
  wdmOff : Byte
  /-- OPC_MOV_STBC, OPC_LOCATION, OPC_MOV_WDM (30_encoding R194). -/
  opcodes : Opcodes
  /-- HAS_CHKL (53_chkl_string R780). -/
  hasChkl : Bool
  /-- HAS_WDT, HAS_NMI (60_exceptions R836). -/
  hasWdt : Bool
  hasNmi : Bool
  /-- LOCATION_FIXED_0 (70_reset_and_hazards R904). -/
  locationFixed0 : Bool
  /-- OPERR_SAVED_PC: false saves the start of the faulting instruction (60_exceptions R833). -/
  operrSavesNext : Bool
deriving DecidableEq, Repr

/-- The defaults of R930; where R930 says "product table" or "host", the ROM-less uPD784031 with
external memory everywhere and an SFR at every offset. DESIGN CHOICE (log 6). -/
def Config.default : Config where
  romSize := 0
  ramStart := 0xF700
  ext := [(0, 0xFFFFFF)]
  sfrMask := BitVec.allOnes 256
  spMask := 0xFFFFFF#24
  stbcOff := 0xC0#8
  wdmOff := 0xC2#8
  opcodes := Opcodes.default
  hasChkl := true
  hasWdt := true
  hasNmi := true
  locationFixed0 := false
  operrSavesNext := false

/-- One exchange between the CPU and the host. -/
inductive IoEvent where
  /-- `SfrRead(off, n)` (20_memory R111, R129). -/
  | sfrRead (off : Byte) (n : Nat)
  /-- `SfrWrite(off, n, v)`. -/
  | sfrWrite (off : Byte) (n : Nat) (v : Long)
  /-- The two levels of a port compared by CHKL, CHKLA (53_chkl_string R780). -/
  | pinCheck (off : Byte)
  /-- `StbcWrite(byte)` (70_reset_and_hazards R922). -/
  | stbcWrite (b : Byte)
  /-- `WdmWrite(byte)` (70_reset_and_hazards R921). -/
  | wdmWrite (b : Byte)
  /-- A hardware request was acknowledged, by its vector address (60_exceptions R838). -/
  | ack (vec : Nat)
  /-- A macro service step and the bytes it wrote (60_exceptions R842). -/
  | macroService (writes : List (Long × Byte))
  /-- RESET input (70_reset_and_hazards R900). -/
  | reset
deriving DecidableEq, Repr

/-- Free values: draw `k` of a run is `Config.undef k` (93_implementation_defined, "any value"; log 8). -/
opaque Config.undef : Nat → BitVec 32

/-- What the host answers to an SFR read of `n` bytes after the history `io` (R111, R129; log 9). -/
opaque Config.sfrRead : List IoEvent → Byte → Nat → Long

/-- Pin level XOR output latch of a port, from the host's port model (R780; log 40). -/
opaque Config.pinDiff : List IoEvent → Byte → Byte

/-- On a product without CHKL: the pins of the port that are in output mode (R780; log 40). -/
opaque Config.outputPins : List IoEvent → Byte → Byte

/-- Does the host stop the CPU on this byte written to STBC? (R922, D22; log 13). -/
opaque Config.stbcStops : List IoEvent → Byte → Bool

end Sys2Proof
end

