-- ==== Sys2Proof/Syntax.lean ====
section
/-! DEFINITION. The abstract syntax: operand identifiers of spec/00_scope R8 and one constructor of
`Instr` per mnemonic and operand shape of spec/opcode_table.json. An operand pair a mnemonic does
not accept is excluded by `Instr.wf` (WellFormed.lean). -/

namespace Sys2Proof

/-- The sixteen 8-bit registers by absolute number (10_state R49); never remapped by RSS. -/
inductive R8 where
  | r0 | r1 | r2 | r3 | r4 | r5 | r6 | r7 | r8 | r9 | r10 | r11 | r12 | r13 | r14 | r15
deriving DecidableEq, Repr

/-- The eight register pairs by absolute number (10_state R50). -/
inductive RP where
  | rp0 | rp1 | rp2 | rp3 | rp4 | rp5 | rp6 | rp7
deriving DecidableEq, Repr

/-- The four 24-bit registers RG4 to RG7 (10_state R51). -/
inductive RG where
  | vvp | uup | tde | whl
deriving DecidableEq, Repr

/-- r3: the four address extension registers (10_state R51). -/
inductive R3 where
  | v | u | t | w
deriving DecidableEq, Repr

/-- A short direct operand: the class the encoding names and the offset byte (20_memory R116). -/
inductive Saddr where
  | s1 (off : Byte)
  | s2 (off : Byte)
deriving DecidableEq, Repr

/-- Register indirect modes in the order of the mode field (30_encoding R175, first byte 16H). -/
inductive RInd where
  | tdeInc | whlInc | tdeDec | whlDec | tde | whl | vvp | uup
deriving DecidableEq, Repr

/-- Base registers of based addressing in the order of the mode field (first byte 06H). -/
inductive BasedReg where
  | tde | sp | whl | uup | vvp
deriving DecidableEq, Repr

/-- Index registers of indexed addressing in the order of the mode field (first byte 0AH). -/
inductive IdxReg where
  | de | a | hl | b
deriving DecidableEq, Repr

/-- Based indexed modes in the order of the mode field (first byte 17H). -/
inductive BIdx where
  | tdeA | whlA | tdeB | whlB | vvpDe | vvpHl | tdeC | whlC
deriving DecidableEq, Repr

/-- The `mem` operands (00_scope R8, 20_memory R121 to R124). -/
inductive Mem where
  | rind (m : RInd)
  | based (m : BasedReg) (off : Byte)
  | indexed (m : IdxReg) (base : Long)
  | bidx (m : BIdx)
deriving DecidableEq, Repr

/-- 8-bit operands. `a` is the implied accumulator (follows RSS), `r` a numbered register,
`indP` is `[saddrp]`, `indG` is `[%saddrg]`, `ext` is r3. -/
inductive Op8 where
  | a
  | r (n : R8)
  | imm (b : Byte)
  | saddr (x : Saddr)
  | sfr (o : Byte)
  | indP (x : Saddr)
  | indG (x : Saddr)
  | abs16 (w : Word)
  | abs24 (l : Long)
  | mem (m : Mem)
  | pswl
  | pswh
  | ext (e : R3)
deriving DecidableEq, Repr

/-- 16-bit operands. `ax` is the implied pair (follows RSS). -/
inductive Op16 where
  | ax
  | rp (n : RP)
  | imm (w : Word)
  | saddr (x : Saddr)
  | sfr (o : Byte)
  | indP (x : Saddr)
  | indG (x : Saddr)
  | abs16 (w : Word)
  | abs24 (l : Long)
  | mem (m : Mem)
deriving DecidableEq, Repr

/-- 24-bit operands. -/
inductive Op24 where
  | rg (g : RG)
  | imm (l : Long)
  | saddr (x : Saddr)
  | indG (x : Saddr)
  | abs24 (l : Long)
  | mem (m : Mem)
  | sp
deriving DecidableEq, Repr

/-- mem3 of ROR4 and ROL4 (20_memory R125). -/
inductive Mem3 where
  | rp0 | vvp | rp1 | uup | rp2 | tde | rp3 | whl
deriving DecidableEq, Repr

/-- The byte a bit operand lies in (48_bit R560). `regX` and `regA` follow RSS. -/
inductive BitLoc where
  | saddr (x : Saddr)
  | sfr (o : Byte)
  | regX
  | regA
  | pswl
  | pswh
  | tde
  | whl
  | abs16 (w : Word)
  | abs24 (l : Long)
deriving DecidableEq, Repr

/-- The operand of NOT1, SET1 and CLR1: CY or one bit (48_bit R566 to R568). -/
inductive BitDst where
  | cy
  | bit (x : BitLoc) (b : Fin 8)
deriving DecidableEq, Repr

/-- Targets of CALL and BR (50_call_return R641 to R647, 51_branch R691 to R698). -/
inductive Target where
  | abs16 (w : Word)
  | abs20 (p : PAddr)
  | rp (n : RP)
  | rg (g : RG)
  | indRp (n : RP)
  | indRg (g : RG)
  | rel8 (d : Byte)
  | rel16 (d : Word)
deriving DecidableEq, Repr

/-- Operands of PUSH and POP (49_stack R602 to R612). -/
inductive StackOp where
  | psw
  | sfrp (o : Byte)
  | sfr (o : Byte)
  | post (p : Byte)
  | rg (g : RG)
deriving DecidableEq, Repr

/-- The counter of DBNZ (51_branch R740). `b` and `c` follow RSS. -/
inductive LoopReg where
  | b
  | c
  | saddr (x : Saddr)
deriving DecidableEq, Repr

/-- Direction of a string instruction (53_chkl_string R783). -/
inductive Dir where
  | inc | dec
deriving DecidableEq, Repr

/-- One constructor per mnemonic of spec/opcode_table.json and, where the operand shapes of one
mnemonic differ in kind, per shape. LAWS.json maps each to its mnemonic. -/
inductive Instr where
  | mov (d s : Op8)
  | movStbc (nb b : Byte)
  | movWdm (nb b : Byte)
  | movw (d s : Op16)
  | movg (d s : Op24)
  | xch (d s : Op8)
  | xchw (d s : Op16)
  | add (d s : Op8)
  | addc (d s : Op8)
  | sub (d s : Op8)
  | subc (d s : Op8)
  | cmp (d s : Op8)
  | and (d s : Op8)
  | or (d s : Op8)
  | xor (d s : Op8)
  | addw (d s : Op16)
  | subw (d s : Op16)
  | cmpw (d s : Op16)
  | addg (d s : Op24)
  | subg (d s : Op24)
  | mulu (n : R8)
  | muluw (n : RP)
  | mulw (n : RP)
  | divuw (n : R8)
  | divux (n : RP)
  | macw (c : Byte)
  | macsw (c : Byte)
  | sacw
  | inc (o : Op8)
  | dec (o : Op8)
  | incw (o : Op16)
  | decw (o : Op16)
  | incg (o : Op24)
  | decg (o : Op24)
  | adjba
  | adjbs
  | cvtbw
  | ror (n : R8) (c : Fin 8)
  | rol (n : R8) (c : Fin 8)
  | rorc (n : R8) (c : Fin 8)
  | rolc (n : R8) (c : Fin 8)
  | shr (n : R8) (c : Fin 8)
  | shl (n : R8) (c : Fin 8)
  | shrw (n : RP) (c : Fin 8)
  | shlw (n : RP) (c : Fin 8)
  | ror4 (m : Mem3)
  | rol4 (m : Mem3)
  | mov1Cy (x : BitLoc) (b : Fin 8)
  | mov1To (x : BitLoc) (b : Fin 8)
  | and1 (neg : Bool) (x : BitLoc) (b : Fin 8)
  | or1 (neg : Bool) (x : BitLoc) (b : Fin 8)
  | xor1 (x : BitLoc) (b : Fin 8)
  | not1 (t : BitDst)
  | set1 (t : BitDst)
  | clr1 (t : BitDst)
  | push (o : StackOp)
  | pushu (p : Byte)
  | pop (o : StackOp)
  | popu (p : Byte)
  | addwg (w : Word)
  | subwg (w : Word)
  | call (t : Target)
  | callf (a : BitVec 11)
  | callt (t : Fin 32)
  | brk
  | brkcs (n : Fin 8)
  | ret
  | reti
  | retb
  | retcs (w : Word)
  | retcsb (w : Word)
  | br (t : Target)
  | bnz (d : Byte)
  | bne (d : Byte)
  | bz (d : Byte)
  | be (d : Byte)
  | bnc (d : Byte)
  | bnl (d : Byte)
  | bc (d : Byte)
  | bl (d : Byte)
  | bnv (d : Byte)
  | bpo (d : Byte)
  | bv (d : Byte)
  | bpe (d : Byte)
  | bp (d : Byte)
  | bn (d : Byte)
  | blt (d : Byte)
  | bge (d : Byte)
  | ble (d : Byte)
  | bgt (d : Byte)
  | bnh (d : Byte)
  | bh (d : Byte)
  | bf (x : BitLoc) (b : Fin 8) (d : Byte)
  | bt (x : BitLoc) (b : Fin 8) (d : Byte)
  | btclr (x : BitLoc) (b : Fin 8) (d : Byte)
  | bfset (x : BitLoc) (b : Fin 8) (d : Byte)
  | dbnz (t : LoopReg) (d : Byte)
  | location (lo hi : Byte)
  | sel (n : Fin 8)
  | selAlt (n : Fin 8)
  | swrs
  | nop
  | ei
  | di
  | chkl (o : Byte)
  | chkla (o : Byte)
  | movtblw (lo count : Byte)
  | movm (d : Dir)
  | xchm (d : Dir)
  | movbk (d : Dir)
  | xchbk (d : Dir)
  | cmpme (d : Dir)
  | cmpmne (d : Dir)
  | cmpmc (d : Dir)
  | cmpmnc (d : Dir)
  | cmpbke (d : Dir)
  | cmpbkne (d : Dir)
  | cmpbkc (d : Dir)
  | cmpbknc (d : Dir)
deriving DecidableEq, Repr

/-- The second names BNE, BE, BNL, BL, BPO, BPE are the same words as BNZ, BZ, BNC, BC, BNV, BV
(51_branch, "The two mnemonics of a pair are the same instruction"); `canonical` is the name the
decoder answers. -/
def Instr.canonical : Instr → Instr
  | .bne d => .bnz d
  | .be d => .bz d
  | .bnl d => .bnc d
  | .bl d => .bc d
  | .bpo d => .bnv d
  | .bpe d => .bv d
  | i => i

end Sys2Proof
end

