-- ==== Sys2Proof/WellFormed.lean ====
section
/-! DEFINITION. The operand forms each mnemonic accepts: the rows of spec/opcode_table.json, by the
operand lists of 40_mov R250, 41 R300 and R310, 42 R350 and R360, 43 R380, 44 R430 and R440, 48 R560. -/

namespace Sys2Proof

/-- saddr2 operands: the only ones the short accumulator forms take (30_encoding R184). -/
def Saddr.isS2 : Saddr → Bool
  | .s2 _ => true
  | .s1 _ => false

/-- An SFR offset that is not one of the two PSW bytes; MOV lists FEH and FFH as PSWL, PSWH (R194). -/
def sfrNotPsw (o : Byte) : Bool := o != 0xFE#8 && o != 0xFF#8

/-- Operand pairs of MOV (40_mov R250). -/
def movForm : Op8 → Op8 → Bool
  | .r _, .imm _ | .saddr _, .imm _ | .abs16 _, .imm _ | .abs24 _, .imm _ => true
  | .sfr o, .imm _ => sfrNotPsw o
  | .r _, .r _ | .a, .r _ => true
  | .a, .saddr x => x.isS2
  | .r _, .saddr _ | .saddr _, .r _ | .saddr _, .saddr _ => true
  | .saddr x, .a => x.isS2
  | .a, .sfr o => sfrNotPsw o
  | .sfr o, .a => sfrNotPsw o
  | .r _, .sfr _ | .sfr _, .r _ => true
  | .r _, .abs16 _ | .abs16 _, .r _ | .r _, .abs24 _ | .abs24 _, .r _ => true
  | .a, .indP _ | .a, .indG _ | .a, .mem _ => true
  | .indP _, .a | .indG _, .a | .mem _, .a => true
  | .pswl, .imm _ | .pswh, .imm _ | .pswl, .a | .pswh, .a | .a, .pswl | .a, .pswh => true
  | .ext _, .imm _ | .a, .ext _ | .ext _, .a => true
  | _, _ => false

/-- Operand pairs of MOVW (41_movw_movg R300). -/
def movwForm : Op16 → Op16 → Bool
  | .rp _, .imm _ | .saddr _, .imm _ | .sfr _, .imm _ | .abs16 _, .imm _ | .abs24 _, .imm _ => true
  | .rp _, .rp _ => true
  | .ax, .saddr x => x.isS2
  | .saddr x, .ax => x.isS2
  | .rp _, .saddr _ | .saddr _, .rp _ | .saddr _, .saddr _ => true
  | .ax, .sfr _ | .rp _, .sfr _ | .sfr _, .ax | .sfr _, .rp _ => true
  | .rp _, .abs16 _ | .abs16 _, .rp _ | .rp _, .abs24 _ | .abs24 _, .rp _ => true
  | .ax, .indP _ | .ax, .indG _ | .ax, .mem _ => true
  | .indP _, .ax | .indG _, .ax | .mem _, .ax => true
  | _, _ => false

/-- mem1: every mem form but [WHL+] and [WHL-] (00_scope R8). -/
def Mem.isMem1 : Mem → Bool
  | .rind .whlInc | .rind .whlDec => false
  | _ => true

/-- Operand pairs of MOVG (41_movw_movg R310, 49_stack R620 to R622). -/
def movgForm : Op24 → Op24 → Bool
  | .rg _, .imm _ | .rg _, .rg _ => true
  | .rg _, .abs24 _ | .abs24 _, .rg _ | .rg _, .saddr _ | .saddr _, .rg _ => true
  | .rg g, .indG _ => g == .whl
  | .indG _, .rg g => g == .whl
  | .rg g, .mem m => g == .whl && m.isMem1
  | .mem m, .rg g => g == .whl && m.isMem1
  | .sp, .imm _ => true
  | .sp, .rg g => g == .whl
  | .rg g, .sp => g == .whl
  | _, _ => false

/-- Operand pairs of XCH (42_xch_xchw R350). -/
def xchForm : Op8 → Op8 → Bool
  | .r _, .r _ | .a, .r _ => true
  | .a, .saddr x => x.isS2
  | .r _, .saddr _ | .r _, .sfr _ | .saddr _, .saddr _ => true
  | .r _, .abs16 _ | .r _, .abs24 _ => true
  | .a, .indP _ | .a, .indG _ | .a, .mem _ => true
  | _, _ => false

/-- Operand pairs of XCHW (42_xch_xchw R360). -/
def xchwForm : Op16 → Op16 → Bool
  | .rp _, .rp _ => true
  | .ax, .saddr x => x.isS2
  | .rp _, .saddr _ | .rp _, .sfr _ | .saddr _, .saddr _ => true
  | .ax, .indP _ | .ax, .indG _ | .ax, .abs16 _ | .ax, .abs24 _ | .ax, .mem _ => true
  | _, _ => false

/-- Operand pairs of the eight 8-bit operations (43_alu8 R380). -/
def alu8Form : Op8 → Op8 → Bool
  | .a, .imm _ | .r _, .imm _ | .saddr _, .imm _ | .sfr _, .imm _ => true
  | .r _, .r _ => true
  | .a, .saddr x => x.isS2
  | .r _, .saddr _ | .saddr _, .r _ | .r _, .sfr _ | .sfr _, .r _ | .saddr _, .saddr _ => true
  | .a, .indP _ | .a, .indG _ | .indP _, .a | .indG _, .a => true
  | .a, .abs16 _ | .a, .abs24 _ | .abs16 _, .a | .abs24 _, .a => true
  | .a, .mem _ | .mem _, .a => true
  | _, _ => false

/-- Operand pairs of ADDW, SUBW, CMPW (44_alu16_24 R430). -/
def alu16Form : Op16 → Op16 → Bool
  | .ax, .imm _ | .rp _, .imm _ | .saddr _, .imm _ | .sfr _, .imm _ => true
  | .rp _, .rp _ => true
  | .ax, .saddr x => x.isS2
  | .rp _, .saddr _ | .saddr _, .rp _ | .rp _, .sfr _ | .sfr _, .rp _ | .saddr _, .saddr _ => true
  | _, _ => false

/-- Operand pairs of ADDG, SUBG (44_alu16_24 R440). -/
def alu24Form : Op24 → Op24 → Bool
  | .rg _, .rg _ | .rg _, .imm _ => true
  | .rg g, .saddr _ => g == .whl
  | _, _ => false

/-- Operands of INC and DEC (46_incdec_adjust R500, R501). -/
def incForm : Op8 → Bool
  | .r _ | .saddr _ => true
  | _ => false

/-- Operands of INCW and DECW (R502, R503). -/
def incwForm : Op16 → Bool
  | .rp _ | .saddr _ => true
  | _ => false

/-- Operands of INCG and DECG (R504, R505, 49_stack R625, R626). -/
def incgForm : Op24 → Bool
  | .rg _ | .sp => true
  | _ => false

/-- Targets of CALL (50_call_return R641 to R647). -/
def callForm : Target → Bool
  | .rel8 _ => false
  | _ => true

/-- The well-formed instructions: exactly those some row of the opcode table encodes. -/
def Instr.wf : Instr → Bool
  | .mov d s => movForm d s
  | .movw d s => movwForm d s
  | .movg d s => movgForm d s
  | .xch d s => xchForm d s
  | .xchw d s => xchwForm d s
  | .add d s | .addc d s | .sub d s | .subc d s
  | .cmp d s | .and d s | .or d s | .xor d s => alu8Form d s
  | .addw d s | .subw d s | .cmpw d s => alu16Form d s
  | .addg d s | .subg d s => alu24Form d s
  | .inc o | .dec o => incForm o
  | .incw o | .decw o => incwForm o
  | .incg o | .decg o => incgForm o
  | .call t => callForm t
  | .movStbc _ _ | .movWdm _ _ | .mulu _ | .muluw _ | .mulw _ | .divuw _ | .divux _ | .macw _
  | .macsw _ | .sacw | .adjba | .adjbs | .cvtbw | .ror _ _ | .rol _ _ | .rorc _ _ | .rolc _ _
  | .shr _ _ | .shl _ _ | .shrw _ _ | .shlw _ _ | .ror4 _ | .rol4 _ | .mov1Cy _ _ | .mov1To _ _
  | .and1 _ _ _ | .or1 _ _ _ | .xor1 _ _ | .not1 _ | .set1 _ | .clr1 _ | .push _ | .pushu _ | .pop _
  | .popu _ | .addwg _ | .subwg _ | .callf _ | .callt _ | .brk | .brkcs _ | .ret | .reti | .retb
  | .retcs _ | .retcsb _ | .br _ | .bnz _ | .bne _ | .bz _ | .be _ | .bnc _ | .bnl _ | .bc _ | .bl _
  | .bnv _ | .bpo _ | .bv _ | .bpe _ | .bp _ | .bn _ | .blt _ | .bge _ | .ble _ | .bgt _ | .bnh _
  | .bh _ | .bf _ _ _ | .bt _ _ _ | .btclr _ _ _ | .bfset _ _ _ | .dbnz _ _ | .location _ _ | .sel _
  | .selAlt _ | .swrs | .nop | .ei | .di | .chkl _ | .chkla _ | .movtblw _ _ | .movm _ | .xchm _
  | .movbk _ | .xchbk _ | .cmpme _ | .cmpmne _ | .cmpmc _ | .cmpmnc _ | .cmpbke _ | .cmpbkne _
  | .cmpbkc _ | .cmpbknc _ => true

end Sys2Proof
end

