-- ==== Sys2Proof/Decode.lean ====
section
/-! DEFINITION. The decoder (30_encoding R170 to R194), total on any list of bytes, and after it the
encoder, written from the same tables. A decoded instruction comes with the bytes that follow it. -/

namespace Sys2Proof

/-- What a list of bytes, first byte at the lowest address, begins with. -/
inductive Dec where
  /-- An instruction, and the bytes after its last one. -/
  | ok (i : Instr) (rest : List Byte)
  /-- The bytes end inside an instruction. -/
  | truncated
  /-- No row of the opcode table matches (R195). -/
  | unassigned
deriving DecidableEq, Repr

/-! Register numbers (R172 to R174). -/

def R8.num : R8 → Nat
  | .r0 => 0 | .r1 => 1 | .r2 => 2 | .r3 => 3 | .r4 => 4 | .r5 => 5 | .r6 => 6 | .r7 => 7
  | .r8 => 8 | .r9 => 9 | .r10 => 10 | .r11 => 11 | .r12 => 12 | .r13 => 13 | .r14 => 14 | .r15 => 15

def R8.ofNum : Nat → R8
  | 0 => .r0 | 1 => .r1 | 2 => .r2 | 3 => .r3 | 4 => .r4 | 5 => .r5 | 6 => .r6 | 7 => .r7
  | 8 => .r8 | 9 => .r9 | 10 => .r10 | 11 => .r11 | 12 => .r12 | 13 => .r13 | 14 => .r14 | _ => .r15

def RP.num : RP → Nat
  | .rp0 => 0 | .rp1 => 1 | .rp2 => 2 | .rp3 => 3 | .rp4 => 4 | .rp5 => 5 | .rp6 => 6 | .rp7 => 7

def RP.ofNum : Nat → RP
  | 0 => .rp0 | 1 => .rp1 | 2 => .rp2 | 3 => .rp3 | 4 => .rp4 | 5 => .rp5 | 6 => .rp6 | _ => .rp7

/-- The interleaved `ppp` numbering (R173): pair = (ppp >> 1) + 4*(ppp & 1). -/
def RP.ofPpp (p : Nat) : RP := RP.ofNum (p / 2 % 4 + 4 * (p % 2))

def RP.ppp (n : RP) : Nat := 2 * (n.num % 4) + n.num / 4

def RG.num : RG → Nat
  | .vvp => 0 | .uup => 1 | .tde => 2 | .whl => 3

def RG.ofNum : Nat → RG
  | 0 => .vvp | 1 => .uup | 2 => .tde | _ => .whl

/-- The pair that is the lower 16 bits of a 24-bit register: RP4 to RP7 (R51). -/
def RG.pair : RG → RP
  | .vvp => .rp4 | .uup => .rp5 | .tde => .rp6 | .whl => .rp7

/-- The upper byte of a 24-bit register. -/
def RG.ext : RG → R3
  | .vvp => .v | .uup => .u | .tde => .t | .whl => .w

def R3.num : R3 → Nat
  | .v => 0 | .u => 1 | .t => 2 | .w => 3

def R3.ofNum : Nat → R3
  | 0 => .v | 1 => .u | 2 => .t | _ => .w

def Mem3.num : Mem3 → Nat
  | .rp0 => 0 | .vvp => 1 | .rp1 => 2 | .uup => 3 | .rp2 => 4 | .tde => 5 | .rp3 => 6 | .whl => 7

def Mem3.ofNum : Nat → Mem3
  | 0 => .rp0 | 1 => .vvp | 2 => .rp1 | 3 => .uup | 4 => .rp2 | 5 => .tde | 6 => .rp3 | _ => .whl

/-! Mode fields of the memory operand (R175). -/

def RInd.num : RInd → Nat
  | .tdeInc => 0 | .whlInc => 1 | .tdeDec => 2 | .whlDec => 3
  | .tde => 4 | .whl => 5 | .vvp => 6 | .uup => 7

def RInd.ofNum : Nat → RInd
  | 0 => .tdeInc | 1 => .whlInc | 2 => .tdeDec | 3 => .whlDec
  | 4 => .tde | 5 => .whl | 6 => .vvp | _ => .uup

def BasedReg.num : BasedReg → Nat
  | .tde => 0 | .sp => 1 | .whl => 2 | .uup => 3 | .vvp => 4

def BasedReg.ofNum : Nat → Option BasedReg
  | 0 => some .tde | 1 => some .sp | 2 => some .whl | 3 => some .uup | 4 => some .vvp | _ => none

def IdxReg.num : IdxReg → Nat
  | .de => 0 | .a => 1 | .hl => 2 | .b => 3

def IdxReg.ofNum : Nat → IdxReg
  | 0 => .de | 1 => .a | 2 => .hl | _ => .b

def BIdx.num : BIdx → Nat
  | .tdeA => 0 | .whlA => 1 | .tdeB => 2 | .whlB => 3 | .vvpDe => 4 | .vvpHl => 5 | .tdeC => 6 | .whlC => 7

def BIdx.ofNum : Nat → BIdx
  | 0 => .tdeA | 1 => .whlA | 2 => .tdeB | 3 => .whlB | 4 => .vvpDe | 5 => .vvpHl | 6 => .tdeC | _ => .whlC

/-- A bit number field (R179). -/
def bitNum (n : Nat) : Fin 8 := ⟨n % 8, Nat.mod_lt n (by decide)⟩

/-! Reading the operand bytes (R176, R177). -/

def need1 (bs : List Byte) (k : Byte → List Byte → Dec) : Dec :=
  match bs with
  | b :: bs => k b bs
  | [] => .truncated

/-- Two bytes, low byte first: `#word`, `!addr16`, jdisp16. -/
def need2 (bs : List Byte) (k : Word → List Byte → Dec) : Dec :=
  match bs with
  | lo :: hi :: bs => k (hi ++ lo) bs
  | _ => .truncated

/-- Three bytes in the order of `#imm24`: low, high, high-w. -/
def need3 (bs : List Byte) (k : Long → List Byte → Dec) : Dec :=
  match bs with
  | lo :: hi :: hw :: bs => k (hw ++ hi ++ lo) bs
  | _ => .truncated

/-- Three bytes in the order of `!!addr24`: high-w, low, high (R177). -/
def need3w (bs : List Byte) (k : Long → List Byte → Dec) : Dec :=
  match bs with
  | hw :: lo :: hi :: bs => k (hw ++ hi ++ lo) bs
  | _ => .truncated

/-- The short direct operand of the class the prefix selects (R171). -/
def saddrOf (p : Bool) (off : Byte) : Saddr := if p then .s1 off else .s2 off

/-- The 8-bit register of a 3-bit field and the prefix (R172). -/
def regOf (p : Bool) (n : Nat) : R8 := R8.ofNum (n % 8 + if p then 8 else 0)

/-- A row that has no form after the prefix 3CH (R184). -/
def noPrefix (p : Bool) (d : Dec) : Dec := if p then .unassigned else d

/-- The sfr operand of the MOV forms in which FEH and FFH are listed as PSWL and PSWH (R194). -/
def movSfr (o : Byte) : Op8 := if o = 0xFE#8 then .pswl else if o = 0xFF#8 then .pswh else .sfr o

/-- The eight 8-bit operations by their code (43_alu8 R380). -/
def aluInstr (k : Nat) (d s : Op8) : Instr :=
  match k with
  | 0 => .add d s
  | 1 => .addc d s
  | 2 => .sub d s
  | 3 => .subc d s
  | 4 => .and d s
  | 5 => .xor d s
  | 6 => .or d s
  | _ => .cmp d s

/-- The word operations that share the codes 0, 2 and 7 (44_alu16_24 R430). -/
def aluWord (k : Nat) (d s : Op16) : Option Instr :=
  match k with
  | 0 => some (.addw d s)
  | 2 => some (.subw d s)
  | 7 => some (.cmpw d s)
  | _ => none

/-- The 24-bit operations that share the codes 0 and 2 (R440). -/
def aluLong (k : Nat) (d s : Op24) : Option Instr :=
  match k with
  | 0 => some (.addg d s)
  | 2 => some (.subg d s)
  | _ => none

def assigned (o : Option Instr) (bs : List Byte) : Dec :=
  match o with
  | some i => .ok i bs
  | none => .unassigned

/-- The operation nibble of the mode byte (R175): the accumulator (A, AX or WHL) with the memory
operand given at its three widths; `st` is the bit d. -/
def accOp (st : Bool) (op : Nat) (m8 : Op8) (m16 : Op16) (m24 : Op24) : Option Instr :=
  if st then
    match op with
    | 0 => some (.mov m8 .a)
    | 1 => some (.movw m16 .ax)
    | 2 => some (.movg m24 (.rg .whl))
    | 8 | 9 | 10 | 11 | 12 | 13 | 14 | 15 => some (aluInstr (op - 8) m8 .a)
    | _ => none
  else
    match op with
    | 0 => some (.mov .a m8)
    | 1 => some (.movw .ax m16)
    | 2 => some (.movg (.rg .whl) m24)
    | 4 => some (.xch .a m8)
    | 5 => some (.xchw .ax m16)
    | 8 | 9 | 10 | 11 | 12 | 13 | 14 | 15 => some (aluInstr (op - 8) .a m8)
    | _ => none

def accMem (st : Bool) (op : Nat) (m : Mem) : Option Instr := accOp st op (.mem m) (.mem m) (.mem m)

/-- First byte 16H (R185): MOV only with [VVP] and [UUP], MOVG not with [WHL+] and [WHL-]. -/
def decRInd (n : Nat) (bs : List Byte) : Dec :=
  let m := n / 16 % 8
  let op := n % 16
  if op = 0 ∧ m < 6 then .unassigned
  else if op = 2 ∧ (m = 1 ∨ m = 3) then .unassigned
  else assigned (accMem (decide (128 ≤ n)) op (.rind (RInd.ofNum m))) bs

/-- First byte 06H. -/
def decBased (n : Nat) (bs : List Byte) : Dec :=
  match BasedReg.ofNum (n / 16 % 8) with
  | none => .unassigned
  | some r =>
    match accMem (decide (128 ≤ n)) (n % 16) (.based r 0#8) with
    | none => .unassigned
    | some _ => need1 bs fun off bs => assigned (accMem (decide (128 ≤ n)) (n % 16) (.based r off)) bs

/-- First byte 0AH: indexed, and the absolute forms of XCHW AX and the eight A operations. -/
def decIndexed (n : Nat) (bs : List Byte) : Dec :=
  let m := n / 16 % 8
  let op := n % 16
  let st := decide (128 ≤ n)
  if m < 4 then
    match accMem st op (.indexed (IdxReg.ofNum m) 0#24) with
    | none => .unassigned
    | some _ => need3 bs fun base bs => assigned (accMem st op (.indexed (IdxReg.ofNum m) base)) bs
  else if 8 ≤ op ∨ (op = 5 ∧ st = false) then
    if m = 4 then need2 bs fun a bs => assigned (accOp st op (.abs16 a) (.abs16 a) (.abs24 0#24)) bs
    else if m = 5 then need3w bs fun a bs => assigned (accOp st op (.abs24 a) (.abs24 a) (.abs24 a)) bs
    else .unassigned
  else .unassigned

/-- First byte 17H. -/
def decBIdx (n : Nat) (bs : List Byte) : Dec :=
  assigned (accMem (decide (128 ≤ n)) (n % 16) (.bidx (BIdx.ofNum (n / 16 % 8)))) bs

/-- The fourteen bit operations (R189). -/
def decBitOp (op : Nat) (x : BitLoc) (b : Fin 8) (bs : List Byte) : Dec :=
  match op with
  | 0 => .ok (.mov1Cy x b) bs
  | 1 => .ok (.mov1To x b) bs
  | 2 => .ok (.and1 false x b) bs
  | 3 => .ok (.and1 true x b) bs
  | 4 => .ok (.or1 false x b) bs
  | 5 => .ok (.or1 true x b) bs
  | 6 => .ok (.xor1 x b) bs
  | 7 => .ok (.not1 (.bit x b)) bs
  | 8 => .ok (.set1 (.bit x b)) bs
  | 9 => .ok (.clr1 (.bit x b)) bs
  | 10 => need1 bs fun d bs => .ok (.bf x b d) bs
  | 11 => need1 bs fun d bs => .ok (.bt x b d) bs
  | 12 => need1 bs fun d bs => .ok (.bfset x b d) bs
  | 13 => need1 bs fun d bs => .ok (.btclr x b d) bs
  | _ => .unassigned

/-- Bit operations on one of two operands without operand bytes: `x0` for s = 0, `x1` for s = 1. -/
def decBits (x0 x1 : BitLoc) (n : Nat) (bs : List Byte) : Dec :=
  decBitOp (n / 16) (if n / 8 % 2 = 0 then x0 else x1) (bitNum n) bs

/-- First byte 08H: saddr.bit without SET1, CLR1 and BT (R189), and sfr.bit. -/
def decBits08 (p : Bool) (n : Nat) (bs : List Byte) : Dec :=
  let op := n / 16
  if 14 ≤ op then .unassigned
  else if n / 8 % 2 = 0 then
    if op = 8 ∨ op = 9 ∨ op = 11 then .unassigned
    else need1 bs fun off bs => decBitOp op (.saddr (saddrOf p off)) (bitNum n) bs
  else noPrefix p (need1 bs fun off bs => decBitOp op (.sfr off) (bitNum n) bs)

/-- 09H 0D0H: bit operations on absolute addresses. -/
def decBitsAbs (n : Nat) (bs : List Byte) : Dec :=
  if 14 ≤ n / 16 then .unassigned
  else if n / 8 % 2 = 0 then need2 bs fun a bs => decBitOp (n / 16) (.abs16 a) (bitNum n) bs
  else need3w bs fun a bs => decBitOp (n / 16) (.abs24 a) (bitNum n) bs

/-- First byte 01H (R190). -/
def dec01 (n : Nat) (bs : List Byte) : Dec :=
  if n / 8 = 13 then
    need1 bs fun o bs => need1 bs fun b bs => .ok (aluInstr (n % 8) (.sfr o) (.imm b)) bs
  else if n = 0x0D then need1 bs fun o bs => need2 bs fun w bs => .ok (.addw (.sfr o) (.imm w)) bs
  else if n = 0x0E then need1 bs fun o bs => need2 bs fun w bs => .ok (.subw (.sfr o) (.imm w)) bs
  else if n = 0x0F then need1 bs fun o bs => need2 bs fun w bs => .ok (.cmpw (.sfr o) (.imm w)) bs
  else .unassigned

/-- First byte 05H (R187). -/
def dec05 (p : Bool) (n : Nat) (bs : List Byte) : Dec :=
  let lo := n % 8
  let gg := RG.ofNum (n / 2 % 4)
  let pp := RP.ofPpp lo
  match n / 8 with
  | 1 => .ok (.mulu (regOf p lo)) bs
  | 3 => .ok (.divuw (regOf p lo)) bs
  | 5 => noPrefix p (.ok (.muluw pp) bs)
  | 7 => noPrefix p (.ok (.mulw pp) bs)
  | 8 => noPrefix p (if n % 2 = 1 then .ok (.br (.rg gg)) bs else .unassigned)
  | 9 => noPrefix p (.ok (.br (.rp pp)) bs)
  | 10 => noPrefix p (if n % 2 = 1 then .ok (.call (.rg gg)) bs else .unassigned)
  | 11 => noPrefix p (.ok (.call (.rp pp)) bs)
  | 12 => noPrefix p (if n % 2 = 1 then .ok (.br (.indRg gg)) bs else .unassigned)
  | 13 => noPrefix p (.ok (.br (.indRp pp)) bs)
  | 14 => noPrefix p (if n % 2 = 1 then .ok (.call (.indRg gg)) bs else .unassigned)
  | 15 => noPrefix p (.ok (.call (.indRp pp)) bs)
  | 17 => noPrefix p (.ok (.ror4 (Mem3.ofNum lo)) bs)
  | 19 => noPrefix p (.ok (.rol4 (Mem3.ofNum lo)) bs)
  | 21 => noPrefix p (.ok (.sel (bitNum n)) bs)
  | 23 => noPrefix p (.ok (.selAlt (bitNum n)) bs)
  | 24 => noPrefix p (if n % 2 = 1 then .ok (.mov .a (.ext (R3.ofNum (n / 2 % 4)))) bs else .unassigned)
  | 25 => noPrefix p (if n % 2 = 1 then .ok (.mov (.ext (R3.ofNum (n / 2 % 4))) .a) bs else .unassigned)
  | 27 => noPrefix p (.ok (.brkcs (bitNum n)) bs)
  | 29 => noPrefix p (.ok (.divux pp) bs)
  | 31 => noPrefix p <|
    match lo with
    | 0 => .ok (.incg .sp) bs
    | 1 => .ok (.decg .sp) bs
    | 2 => .ok (.movg (.rg .whl) .sp) bs
    | 3 => .ok (.movg .sp (.rg .whl)) bs
    | 4 => .ok .swrs bs
    | 6 => .ok .adjba bs
    | 7 => .ok .adjbs bs
    | _ => .unassigned
  | _ => .unassigned

/-- The six branches of 07H 0F8H to 0FDH (51_branch R710 to R715). -/
def longBranch (k : Nat) (d : Byte) : Option Instr :=
  match k with
  | 0 => some (.blt d)
  | 1 => some (.bge d)
  | 2 => some (.ble d)
  | 3 => some (.bgt d)
  | 4 => some (.bnh d)
  | 5 => some (.bh d)
  | _ => none

/-- First byte 07H (R186). -/
def dec07 (p : Bool) (n : Nat) (bs : List Byte) : Dec :=
  let op := n % 16
  match n / 16 with
  | 2 | 10 =>
    if op = 0 ∨ op = 2 ∨ op = 4 then .unassigned
    else match accOp (decide (128 ≤ n)) op .a .ax .sp with
      | none => .unassigned
      | some _ => need1 bs fun off bs =>
        let x := saddrOf p off
        assigned (accOp (decide (128 ≤ n)) op (.indP x) (.indP x) (.indG x)) bs
  | 3 | 11 =>
    match accOp (decide (128 ≤ n)) op .a .ax .sp with
    | none => .unassigned
    | some _ => need1 bs fun off bs =>
      let x := saddrOf p off
      assigned (accOp (decide (128 ≤ n)) op (.indG x) (.indG x) (.indG x)) bs
  | 6 => noPrefix p <|
    if n % 2 = 1 ∧ op < 8 then
      need1 bs fun b bs => .ok (.mov (.ext (R3.ofNum (n / 2 % 4))) (.imm b)) bs
    else .unassigned
  | 8 => noPrefix p (if op = 5 then need1 bs fun b bs => .ok (.macw b) bs else .unassigned)
  | 9 => noPrefix p (if op = 5 then need1 bs fun b bs => .ok (.macsw b) bs else .unassigned)
  | 12 => noPrefix p <|
    match op with
    | 8 => need1 bs fun o bs => .ok (.chkl o) bs
    | 9 => need1 bs fun o bs => .ok (.chkla o) bs
    | _ => .unassigned
  | 13 => noPrefix p <|
    match op with
    | 8 => need1 bs fun o bs => .ok (.pop (.sfrp o)) bs
    | 9 => need1 bs fun o bs => .ok (.push (.sfrp o)) bs
    | 10 => need1 bs fun o bs => .ok (.pop (.sfr o)) bs
    | 11 => need1 bs fun o bs => .ok (.push (.sfr o)) bs
    | _ => .unassigned
  | 14 =>
    match op with
    | 8 => need1 bs fun off bs => .ok (.incw (.saddr (saddrOf p off))) bs
    | 9 => need1 bs fun off bs => .ok (.decw (.saddr (saddrOf p off))) bs
    | _ => .unassigned
  | 15 => noPrefix p <|
    if 8 ≤ op ∧ op < 14 then need1 bs fun d bs => assigned (longBranch (op - 8) d) bs else .unassigned
  | _ => .unassigned

/-- First byte 09H (R188); the three operation codes of D15 are read before this table. -/
def dec09 (n : Nat) (bs : List Byte) : Dec :=
  match n / 16 with
  | 2 =>
    match n % 16 with
    | 0 => need3 bs fun l bs => .ok (.movg .sp (.imm l)) bs
    | 8 => need2 bs fun w bs => .ok (.addwg w) bs
    | 10 => need2 bs fun w bs => .ok (.subwg w) bs
    | _ => .unassigned
  | 4 =>
    match n % 16 with
    | 0 => need2 bs fun a bs => need1 bs fun b bs => .ok (.mov (.abs16 a) (.imm b)) bs
    | 1 => need2 bs fun a bs => need2 bs fun w bs => .ok (.movw (.abs16 a) (.imm w)) bs
    | _ => .unassigned
  | 5 =>
    match n % 16 with
    | 0 => need3w bs fun a bs => need1 bs fun b bs => .ok (.mov (.abs24 a) (.imm b)) bs
    | 1 => need3w bs fun a bs => need2 bs fun w bs => .ok (.movw (.abs24 a) (.imm w)) bs
    | _ => .unassigned
  | 6 =>
    if n = 0x64 then
      need1 bs fun b3 bs => need1 bs fun b4 bs =>
        if b3 = 0x41#8 ∧ b4 = 0x46#8 then .ok .sacw bs else .unassigned
    else .unassigned
  | 8 => if n % 2 = 1 ∧ 8 ≤ n % 16 then .ok (.push (.rg (RG.ofNum (n / 2 % 4)))) bs else .unassigned
  | 9 => if n % 2 = 1 ∧ 8 ≤ n % 16 then .ok (.pop (.rg (RG.ofNum (n / 2 % 4)))) bs else .unassigned
  | 10 => if n = 0xA0 then need1 bs fun a bs => need1 bs fun c bs => .ok (.movtblw a c) bs else .unassigned
  | 11 => if n = 0xB0 then need2 bs fun w bs => .ok (.retcsb w) bs else .unassigned
  | 13 => if n = 0xD0 then need1 bs fun b bs => decBitsAbs b.toNat bs else .unassigned
  | 14 => need2 bs fun w bs => .ok (.br (.abs20 (BitVec.ofNat 4 n ++ w))) bs
  | 15 => need2 bs fun w bs => .ok (.call (.abs20 (BitVec.ofNat 4 n ++ w))) bs
  | _ => .unassigned

/-- First byte 15H (R193): the twelve string instructions. -/
def dec15 (n : Nat) (bs : List Byte) : Dec :=
  let d : Dir := if n / 16 % 2 = 0 then .inc else .dec
  if 64 ≤ n ∨ 8 ≤ n % 16 then .unassigned
  else match n / 32, n % 8 with
    | 0, 0 => .ok (.movm d) bs
    | 0, 1 => .ok (.xchm d) bs
    | 0, 4 => .ok (.cmpme d) bs
    | 0, 5 => .ok (.cmpmne d) bs
    | 0, 6 => .ok (.cmpmnc d) bs
    | 0, 7 => .ok (.cmpmc d) bs
    | 1, 0 => .ok (.movbk d) bs
    | 1, 1 => .ok (.xchbk d) bs
    | 1, 4 => .ok (.cmpbke d) bs
    | 1, 5 => .ok (.cmpbkne d) bs
    | 1, 6 => .ok (.cmpbknc d) bs
    | 1, 7 => .ok (.cmpbkc d) bs
    | _, _ => .unassigned

/-- Destination and source class of the two-operand short direct forms (40_mov R258). -/
def saddr2 (ss : Nat) (src dst : Byte) : Saddr × Saddr :=
  (if 2 ≤ ss then .s1 dst else .s2 dst, if ss % 2 = 1 then .s1 src else .s2 src)

/-- First byte 2AH (R190): short direct with short direct. -/
def dec2A (n : Nat) (bs : List Byte) : Dec :=
  let ss := n / 16 % 4
  let op := n % 16
  match n / 64 with
  | 0 =>
    if op = 0 ∨ op = 4 ∨ 8 ≤ op then
      need1 bs fun src bs => need1 bs fun dst bs =>
        let x := saddr2 ss src dst
        .ok (if op = 0 then .mov (.saddr x.1) (.saddr x.2)
             else if op = 4 then .xch (.saddr x.1) (.saddr x.2)
             else aluInstr (op - 8) (.saddr x.1) (.saddr x.2)) bs
    else .unassigned
  | 2 =>
    if op = 0 ∨ op = 4 ∨ 13 ≤ op then
      need1 bs fun src bs => need1 bs fun dst bs =>
        let x := saddr2 ss src dst
        .ok (if op = 0 then .movw (.saddr x.1) (.saddr x.2)
             else if op = 4 then .xchw (.saddr x.1) (.saddr x.2)
             else if op = 13 then .addw (.saddr x.1) (.saddr x.2)
             else if op = 14 then .subw (.saddr x.1) (.saddr x.2)
             else .cmpw (.saddr x.1) (.saddr x.2)) bs
    else .unassigned
  | _ => .unassigned

/-- First byte 24H (R192): register to register transfers. -/
def dec24 (p : Bool) (n : Nat) (bs : List Byte) : Dec :=
  if n / 8 % 2 = 0 then .ok (.mov (.r (R8.ofNum (n / 16))) (.r (regOf p n))) bs
  else noPrefix p <|
    if n / 16 % 2 = 0 then .ok (.movw (.rp (RP.ofNum (n / 32))) (.rp (RP.ofPpp (n % 8)))) bs
    else if 128 ≤ n ∧ n % 2 = 1 then
      .ok (.movg (.rg (RG.ofNum (n / 32 % 4))) (.rg (RG.ofNum (n / 2 % 4)))) bs
    else .unassigned

/-- First byte 25H: register to register exchanges. -/
def dec25 (p : Bool) (n : Nat) (bs : List Byte) : Dec :=
  if n / 8 % 2 = 0 then .ok (.xch (.r (R8.ofNum (n / 16))) (.r (regOf p n))) bs
  else noPrefix p <|
    if n / 16 % 2 = 0 then .ok (.xchw (.rp (RP.ofNum (n / 32))) (.rp (RP.ofPpp (n % 8)))) bs
    else .unassigned

/-- First bytes 88H to 8FH: register to register operations. -/
def dec88 (p : Bool) (k n : Nat) (bs : List Byte) : Dec :=
  if n / 8 % 2 = 0 then .ok (aluInstr k (.r (R8.ofNum (n / 16))) (.r (regOf p n))) bs
  else noPrefix p <|
    if n / 16 % 2 = 0 then assigned (aluWord k (.rp (RP.ofNum (n / 32))) (.rp (RP.ofPpp (n % 8)))) bs
    else if 128 ≤ n ∧ n % 2 = 1 then
      assigned (aluLong k (.rg (RG.ofNum (n / 32 % 4))) (.rg (RG.ofNum (n / 2 % 4)))) bs
    else .unassigned

/-- First bytes 30H, 31H (R193): `left` selects the rotates and shifts to the left. -/
def decShift (p left : Bool) (n : Nat) (bs : List Byte) : Dec :=
  let c := bitNum (n / 8)
  match n / 64, left with
  | 0, false => .ok (.rorc (regOf p n) c) bs
  | 0, true => .ok (.rolc (regOf p n) c) bs
  | 1, false => .ok (.ror (regOf p n) c) bs
  | 1, true => .ok (.rol (regOf p n) c) bs
  | 2, false => .ok (.shr (regOf p n) c) bs
  | 2, true => .ok (.shl (regOf p n) c) bs
  | _, false => noPrefix p (.ok (.shrw (RP.ofPpp (n % 8)) c) bs)
  | _, true => noPrefix p (.ok (.shlw (RP.ofPpp (n % 8)) c) bs)

/-- The `cc` field of groups 38H, 39H and 78H to 7FH (R191): saddr2, saddr1 or sfr. -/
def ccOp8 (cc : Nat) (off : Byte) : Op8 :=
  match cc with
  | 0 => .saddr (.s2 off)
  | 1 => .saddr (.s1 off)
  | _ => .sfr off

def ccOp16 (cc : Nat) (off : Byte) : Op16 :=
  match cc with
  | 0 => .saddr (.s2 off)
  | 1 => .saddr (.s1 off)
  | _ => .sfr off

/-- First byte 38H (R191): transfers between registers and short direct or SFR operands. -/
def dec38 (n : Nat) (bs : List Byte) : Dec :=
  let cc := n % 4
  let st := n / 4 % 2 = 1
  if n / 8 % 2 = 0 then
    let r := Op8.r (R8.ofNum (n / 16))
    if cc = 3 then .unassigned
    else need1 bs fun off bs => .ok (if st then .mov (ccOp8 cc off) r else .mov r (ccOp8 cc off)) bs
  else if n / 16 % 2 = 0 then
    let r := Op16.rp (RP.ofNum (n / 32))
    if cc = 3 then .unassigned
    else need1 bs fun off bs => .ok (if st then .movw (ccOp16 cc off) r else .movw r (ccOp16 cc off)) bs
  else if 128 ≤ n then
    let g := Op24.rg (RG.ofNum (n / 32 % 4))
    match n % 8 with
    | 0 => need1 bs fun off bs => .ok (.movg g (.saddr (.s2 off))) bs
    | 1 => need1 bs fun off bs => .ok (.movg g (.saddr (.s1 off))) bs
    | 3 => need3 bs fun l bs => .ok (.movg g (.imm l)) bs
    | 4 => need1 bs fun off bs => .ok (.movg (.saddr (.s2 off)) g) bs
    | 5 => need1 bs fun off bs => .ok (.movg (.saddr (.s1 off)) g) bs
    | _ => .unassigned
  else .unassigned

/-- First byte 39H: exchanges. -/
def dec39 (n : Nat) (bs : List Byte) : Dec :=
  let cc := n % 4
  if n / 4 % 2 = 1 ∨ cc = 3 then .unassigned
  else if n / 8 % 2 = 0 then
    need1 bs fun off bs => .ok (.xch (.r (R8.ofNum (n / 16))) (ccOp8 cc off)) bs
  else if n / 16 % 2 = 0 then
    need1 bs fun off bs => .ok (.xchw (.rp (RP.ofNum (n / 32))) (ccOp16 cc off)) bs
  else .unassigned

/-- First byte 3EH: registers with absolute addresses, INCW and DECW rp1, INCG and DECG rg. -/
def dec3E (n : Nat) (bs : List Byte) : Dec :=
  if n / 8 % 2 = 0 then
    let r := Op8.r (R8.ofNum (n / 16))
    match n % 8 with
    | 0 => need2 bs fun a bs => .ok (.mov r (.abs16 a)) bs
    | 1 => need2 bs fun a bs => .ok (.mov (.abs16 a) r) bs
    | 2 => need3w bs fun a bs => .ok (.mov r (.abs24 a)) bs
    | 3 => need3w bs fun a bs => .ok (.mov (.abs24 a) r) bs
    | 4 => need2 bs fun a bs => .ok (.xch r (.abs16 a)) bs
    | 6 => need3w bs fun a bs => .ok (.xch r (.abs24 a)) bs
    | _ => .unassigned
  else if n / 16 % 2 = 0 then
    let r := Op16.rp (RP.ofNum (n / 32))
    match n % 8 with
    | 0 => need2 bs fun a bs => .ok (.movw r (.abs16 a)) bs
    | 1 => need2 bs fun a bs => .ok (.movw (.abs16 a) r) bs
    | 2 => need3w bs fun a bs => .ok (.movw r (.abs24 a)) bs
    | 3 => need3w bs fun a bs => .ok (.movw (.abs24 a) r) bs
    | 5 => if n < 128 then .ok (.incw r) bs else .unassigned
    | 7 => if n < 128 then .ok (.decw r) bs else .unassigned
    | _ => .unassigned
  else if 128 ≤ n then
    let g := Op24.rg (RG.ofNum (n / 32 % 4))
    match n % 8 with
    | 2 => need3w bs fun a bs => .ok (.movg g (.abs24 a)) bs
    | 3 => need3w bs fun a bs => .ok (.movg (.abs24 a) g) bs
    | 5 => .ok (.incg g) bs
    | 7 => .ok (.decg g) bs
    | _ => .unassigned
  else .unassigned

/-- First bytes 78H to 7FH (R192). -/
def dec78 (k n : Nat) (bs : List Byte) : Dec :=
  let cc := n % 4
  let st := n / 4 % 2 = 1
  if n / 8 % 2 = 0 then
    let r := Op8.r (R8.ofNum (n / 16))
    if cc = 3 then
      if st then .unassigned else need1 bs fun b bs => .ok (aluInstr k r (.imm b)) bs
    else need1 bs fun off bs =>
      .ok (if st then aluInstr k (ccOp8 cc off) r else aluInstr k r (ccOp8 cc off)) bs
  else if n / 16 % 2 = 0 then
    let r := Op16.rp (RP.ofNum (n / 32))
    if k = 0 ∨ k = 2 ∨ k = 7 then
      if cc = 3 then
        if st then .unassigned else need2 bs fun w bs => assigned (aluWord k r (.imm w)) bs
      else need1 bs fun off bs =>
        assigned (if st then aluWord k (ccOp16 cc off) r else aluWord k r (ccOp16 cc off)) bs
    else .unassigned
  else if (k = 0 ∨ k = 2) ∧ 128 ≤ n then
    if n % 8 = 3 then
      need3 bs fun l bs => assigned (aluLong k (.rg (RG.ofNum (n / 32 % 4))) (.imm l)) bs
    else if n = 0xF8 then
      need1 bs fun off bs => assigned (aluLong k (.rg .whl) (.saddr (.s2 off))) bs
    else if n = 0xF9 then
      need1 bs fun off bs => assigned (aluLong k (.rg .whl) (.saddr (.s1 off))) bs
    else .unassigned
  else .unassigned

/-- First bytes 80H to 87H (51_branch R700 to R707). -/
def shortBranch (k : Nat) (d : Byte) : Instr :=
  match k with
  | 0 => .bnz d
  | 1 => .bz d
  | 2 => .bnc d
  | 3 => .bc d
  | 4 => .bnv d
  | 5 => .bv d
  | 6 => .bp d
  | _ => .bn d

/-- First bytes 00H to 0FH. -/
def decRow0 (p : Bool) (l : Nat) (bs : List Byte) : Dec :=
  match l with
  | 0 => noPrefix p (.ok .nop bs)
  | 1 => noPrefix p (need1 bs fun b bs => dec01 b.toNat bs)
  | 2 => noPrefix p (need1 bs fun b bs => decBits .pswl .pswh b.toNat bs)
  | 3 => noPrefix p (need1 bs fun b bs => decBits .regX .regA b.toNat bs)
  | 4 => noPrefix p (.ok .cvtbw bs)
  | 5 => need1 bs fun b bs => dec05 p b.toNat bs
  | 6 => noPrefix p (need1 bs fun b bs => decBased b.toNat bs)
  | 7 => need1 bs fun b bs => dec07 p b.toNat bs
  | 8 => need1 bs fun b bs => decBits08 p b.toNat bs
  | 9 => noPrefix p (need1 bs fun b bs => dec09 b.toNat bs)
  | 10 => noPrefix p (need1 bs fun b bs => decIndexed b.toNat bs)
  | 11 => noPrefix p (need1 bs fun o bs => need2 bs fun w bs => .ok (.movw (.sfr o) (.imm w)) bs)
  | 12 => need1 bs fun o bs => need2 bs fun w bs => .ok (.movw (.saddr (saddrOf p o)) (.imm w)) bs
  | 13 => need1 bs fun o bs => need2 bs fun w bs => .ok (.addw (.saddr (saddrOf p o)) (.imm w)) bs
  | 14 => need1 bs fun o bs => need2 bs fun w bs => .ok (.subw (.saddr (saddrOf p o)) (.imm w)) bs
  | _ => need1 bs fun o bs => need2 bs fun w bs => .ok (.cmpw (.saddr (saddrOf p o)) (.imm w)) bs

/-- First bytes 10H to 1FH. -/
def decRow1 (p : Bool) (l : Nat) (bs : List Byte) : Dec :=
  match l with
  | 0 => noPrefix p (need1 bs fun o bs => .ok (.mov .a (movSfr o)) bs)
  | 1 => noPrefix p (need1 bs fun o bs => .ok (.movw .ax (.sfr o)) bs)
  | 2 => noPrefix p (need1 bs fun o bs => .ok (.mov (movSfr o) .a) bs)
  | 3 => noPrefix p (need1 bs fun o bs => .ok (.movw (.sfr o) .ax) bs)
  | 4 => noPrefix p (need1 bs fun d bs => .ok (.br (.rel8 d)) bs)
  | 5 => noPrefix p (need1 bs fun b bs => dec15 b.toNat bs)
  | 6 => noPrefix p (need1 bs fun b bs => decRInd b.toNat bs)
  | 7 => noPrefix p (need1 bs fun b bs => decBIdx b.toNat bs)
  | 8 => need1 bs fun o bs => .ok (.mov .a (.indP (saddrOf p o))) bs
  | 9 => need1 bs fun o bs => .ok (.mov (.indP (saddrOf p o)) .a) bs
  | 10 => noPrefix p (need1 bs fun o bs => .ok (.movw (.saddr (.s2 o)) .ax) bs)
  | 11 => noPrefix p (need1 bs fun o bs => .ok (.xchw .ax (.saddr (.s2 o))) bs)
  | 12 => noPrefix p (need1 bs fun o bs => .ok (.movw .ax (.saddr (.s2 o))) bs)
  | 13 => noPrefix p (need1 bs fun o bs => .ok (.addw .ax (.saddr (.s2 o))) bs)
  | 14 => noPrefix p (need1 bs fun o bs => .ok (.subw .ax (.saddr (.s2 o))) bs)
  | _ => noPrefix p (need1 bs fun o bs => .ok (.cmpw .ax (.saddr (.s2 o))) bs)

/-- First bytes 20H to 2FH. -/
def decRow2 (p : Bool) (l : Nat) (bs : List Byte) : Dec :=
  match l with
  | 0 => noPrefix p (need1 bs fun o bs => .ok (.mov .a (.saddr (.s2 o))) bs)
  | 1 => noPrefix p (need1 bs fun o bs => .ok (.xch .a (.saddr (.s2 o))) bs)
  | 2 => noPrefix p (need1 bs fun o bs => .ok (.mov (.saddr (.s2 o)) .a) bs)
  | 3 => need1 bs fun o bs => .ok (.xch .a (.indP (saddrOf p o))) bs
  | 4 => need1 bs fun b bs => dec24 p b.toNat bs
  | 5 => need1 bs fun b bs => dec25 p b.toNat bs
  | 6 => need1 bs fun o bs => .ok (.inc (.saddr (saddrOf p o))) bs
  | 7 => need1 bs fun o bs => .ok (.dec (.saddr (saddrOf p o))) bs
  | 8 => noPrefix p (need2 bs fun w bs => .ok (.call (.abs16 w)) bs)
  | 9 => noPrefix p (need2 bs fun w bs => .ok (.retcs w) bs)
  | 10 => noPrefix p (need1 bs fun b bs => dec2A b.toNat bs)
  | 11 => noPrefix p (need1 bs fun o bs => need1 bs fun b bs => .ok (.mov (movSfr o) (.imm b)) bs)
  | 12 => noPrefix p (need2 bs fun w bs => .ok (.br (.abs16 w)) bs)
  | 13 => noPrefix p (need2 bs fun w bs => .ok (.addw .ax (.imm w)) bs)
  | 14 => noPrefix p (need2 bs fun w bs => .ok (.subw .ax (.imm w)) bs)
  | _ => noPrefix p (need2 bs fun w bs => .ok (.cmpw .ax (.imm w)) bs)

/-- First bytes 30H to 3FH; 3CH is the prefix and is read before this table. -/
def decRow3 (p : Bool) (l : Nat) (bs : List Byte) : Dec :=
  match l with
  | 0 => need1 bs fun b bs => decShift p false b.toNat bs
  | 1 => need1 bs fun b bs => decShift p true b.toNat bs
  | 2 => noPrefix p (need1 bs fun d bs => .ok (.dbnz .c d) bs)
  | 3 => noPrefix p (need1 bs fun d bs => .ok (.dbnz .b d) bs)
  | 4 => noPrefix p (need1 bs fun b bs => .ok (.pop (.post b)) bs)
  | 5 => noPrefix p (need1 bs fun b bs => .ok (.push (.post b)) bs)
  | 6 => noPrefix p (need1 bs fun b bs => .ok (.popu b) bs)
  | 7 => noPrefix p (need1 bs fun b bs => .ok (.pushu b) bs)
  | 8 => noPrefix p (need1 bs fun b bs => dec38 b.toNat bs)
  | 9 => noPrefix p (need1 bs fun b bs => dec39 b.toNat bs)
  | 10 => need1 bs fun o bs => need1 bs fun b bs => .ok (.mov (.saddr (saddrOf p o)) (.imm b)) bs
  | 11 => need1 bs fun o bs => need1 bs fun d bs => .ok (.dbnz (.saddr (saddrOf p o)) d) bs
  | 13 => noPrefix p (need1 bs fun b bs => decBits .tde .whl b.toNat bs)
  | 14 => noPrefix p (need1 bs fun b bs => dec3E b.toNat bs)
  | 15 => noPrefix p (need2 bs fun w bs => .ok (.call (.rel16 w)) bs)
  | _ => .unassigned

/-- First bytes 40H to 4FH. -/
def decRow4 (l : Nat) (bs : List Byte) : Dec :=
  match l with
  | 0 => .ok (.clr1 .cy) bs
  | 1 => .ok (.set1 .cy) bs
  | 2 => .ok (.not1 .cy) bs
  | 3 => need2 bs fun w bs => .ok (.br (.rel16 w)) bs
  | 4 | 5 | 6 | 7 => .ok (.incw (.rp (RP.ofNum l))) bs
  | 8 => .ok (.pop .psw) bs
  | 9 => .ok (.push .psw) bs
  | 10 => .ok .di bs
  | 11 => .ok .ei bs
  | _ => .ok (.decw (.rp (RP.ofNum (l - 8)))) bs

/-- First bytes 50H to 5FH. -/
def decRow5 (l : Nat) (bs : List Byte) : Dec :=
  match l with
  | 6 => .ok .ret bs
  | 7 => .ok .reti bs
  | 14 => .ok .brk bs
  | 15 => .ok .retb bs
  | _ => if l < 6 then .ok (.mov (.mem (.rind (RInd.ofNum l))) .a) bs
         else .ok (.mov .a (.mem (.rind (RInd.ofNum (l - 8))))) bs

/-- The first byte after the prefix, or the first byte itself (R183, R184). -/
def decodeOp (p : Bool) (n : Nat) (bs : List Byte) : Dec :=
  let l := n % 16
  match n / 16 with
  | 0 => decRow0 p l bs
  | 1 => decRow1 p l bs
  | 2 => decRow2 p l bs
  | 3 => decRow3 p l bs
  | 4 => noPrefix p (decRow4 l bs)
  | 5 => noPrefix p (decRow5 l bs)
  | 6 =>
    if l < 8 then noPrefix p (need2 bs fun w bs => .ok (.movw (.rp (RP.ofPpp l)) (.imm w)) bs)
    else need1 bs fun o bs => need1 bs fun b bs => .ok (aluInstr (l - 8) (.saddr (saddrOf p o)) (.imm b)) bs
  | 7 =>
    if l < 8 then
      need1 bs fun o bs => need1 bs fun d bs => .ok (.bt (.saddr (saddrOf p o)) (bitNum l) d) bs
    else noPrefix p (need1 bs fun b bs => dec78 (l - 8) b.toNat bs)
  | 8 =>
    if l < 8 then noPrefix p (need1 bs fun d bs => .ok (shortBranch l d) bs)
    else need1 bs fun b bs => dec88 p (l - 8) b.toNat bs
  | 9 => noPrefix p <|
    if l < 8 then need1 bs fun b bs => .ok (.callf (BitVec.ofNat 3 l ++ b)) bs
    else need1 bs fun o bs => .ok (aluInstr (l - 8) .a (.saddr (.s2 o))) bs
  | 10 =>
    if l < 8 then need1 bs fun o bs => .ok (.clr1 (.bit (.saddr (saddrOf p o)) (bitNum l))) bs
    else noPrefix p (need1 bs fun b bs => .ok (aluInstr (l - 8) .a (.imm b)) bs)
  | 11 =>
    if l < 8 then need1 bs fun o bs => .ok (.set1 (.bit (.saddr (saddrOf p o)) (bitNum l))) bs
    else need1 bs fun b bs => .ok (.mov (.r (regOf p l)) (.imm b)) bs
  | 12 => if l < 8 then .ok (.inc (.r (regOf p l))) bs else .ok (.dec (.r (regOf p l))) bs
  | 13 => if l < 8 then .ok (.mov .a (.r (regOf p l))) bs else .ok (.xch .a (.r (regOf p l))) bs
  | _ => noPrefix p (.ok (.callt ⟨n % 32, Nat.mod_lt n (by decide)⟩) bs)

/-- The two operand bytes of MOV STBC, MOV WDM and LOCATION (52_cpu_control R750 to R752). -/
def decSpecial (k : Byte → Byte → Instr) (bs : List Byte) : Dec :=
  need1 bs fun b3 bs => need1 bs fun b4 bs => .ok (k b3 b4) bs

/-- Decode by the rows of the opcode table alone; 3CH is the prefix of the r2 and saddr1 forms (R171). -/
def decodeRows (bs : List Byte) : Dec :=
  match bs with
  | [] => .truncated
  | b1 :: bs =>
    if b1 = 0x3C#8 then need1 bs fun b bs => if b = 0x3C#8 then .unassigned else decodeOp true b.toNat bs
    else decodeOp false b1.toNat bs

/-- Decode the instruction a list of bytes begins with; the operation codes of MOV STBC, LOCATION and MOV WDM
are the product's parameters (R194). -/
def decode (o : Opcodes) (bs : List Byte) : Dec :=
  match bs with
  | b1 :: b2 :: rest =>
    if (b1, b2) = o.movStbc then decSpecial .movStbc rest
    else if (b1, b2) = o.location then decSpecial .location rest
    else if (b1, b2) = o.movWdm then decSpecial .movWdm rest
    else decodeRows bs
  | _ => decodeRows bs

/-- The three operation codes differ and begin no row of the table: what R194 asks of the parameters. -/
def Opcodes.free (o : Opcodes) : Prop :=
  [o.movStbc, o.location, o.movWdm].Nodup ∧
  ∀ p ∈ [o.movStbc, o.location, o.movWdm], ∀ rest, decodeRows (p.1 :: p.2 :: rest) = .unassigned

/-- How many bytes the decoded instruction has. -/
def decodedLength (bs rest : List Byte) : Nat := bs.length - rest.length

/-! The encoder. -/

/-- A byte of two nibbles. -/
def nib (h l : Nat) : Byte := BitVec.ofNat 8 (16 * h + l)

def byteOf (n : Nat) : Byte := BitVec.ofNat 8 n

def le16 (w : Word) : List Byte := [w.extractLsb' 0 8, w.extractLsb' 8 8]

def le24 (l : Long) : List Byte := [l.extractLsb' 0 8, l.extractLsb' 8 8, l.extractLsb' 16 8]

/-- `!!addr24` order: high-w, low, high (R177). -/
def hw24 (l : Long) : List Byte := [l.extractLsb' 16 8, l.extractLsb' 0 8, l.extractLsb' 8 8]

/-- The prefix an r1 / r2 field needs (R172). -/
def R8.pre (n : R8) : List Byte := if 8 ≤ n.num then [0x3C#8] else []

def Saddr.pre : Saddr → List Byte
  | .s1 _ => [0x3C#8]
  | .s2 _ => []

def Saddr.off : Saddr → Byte
  | .s1 o => o
  | .s2 o => o

/-- The class bit of a short direct operand in groups 38H, 39H, 78H and 2AH: 1 for saddr1. -/
def Saddr.cls : Saddr → Nat
  | .s1 _ => 1
  | .s2 _ => 0

/-- Mode byte and operand bytes of a `mem` operand after its group byte (R175). -/
def encMem (st : Bool) (op : Nat) (m : Mem) : List Byte :=
  let d := if st then 8 else 0
  match m with
  | .rind r => [0x16#8, nib (d + r.num) op]
  | .based r off => [0x06#8, nib (d + r.num) op, off]
  | .indexed r base => [0x0A#8, nib (d + r.num) op] ++ le24 base
  | .bidx x => [0x17#8, nib (d + x.num) op]

/-- `07H d01x oooo saddr` with x = 0 for [saddrp] and 1 for [%saddrg] (R186). -/
def encInd (st g : Bool) (op : Nat) (x : Saddr) : List Byte :=
  x.pre ++ [0x07#8, nib ((if st then 8 else 0) + (if g then 3 else 2)) op, x.off]

/-- `2AH B2 src dst` (R190). -/
def enc2A (w op : Nat) (d s : Saddr) : List Byte :=
  [0x2A#8, nib (w + 2 * d.cls + s.cls) op, s.off, d.off]

/-- The six one-byte register indirect forms of MOV and the two-byte ones (40_mov R261). -/
def encMovRInd (st : Bool) (r : RInd) : List Byte :=
  if r.num < 6 then [nib 5 (r.num + if st then 0 else 8)] else encMem st 0 (.rind r)

def encMov (d s : Op8) : List Byte :=
  match d, s with
  | .r n, .imm b => n.pre ++ [nib 11 (8 + n.num % 8), b]
  | .saddr x, .imm b => x.pre ++ [0x3A#8, x.off, b]
  | .sfr o, .imm b => [0x2B#8, o, b]
  | .abs16 a, .imm b => [0x09#8, 0x40#8] ++ le16 a ++ [b]
  | .abs24 a, .imm b => [0x09#8, 0x50#8] ++ hw24 a ++ [b]
  | .r n, .r m => m.pre ++ [0x24#8, nib n.num (m.num % 8)]
  | .a, .r n => n.pre ++ [nib 13 (n.num % 8)]
  | .a, .saddr x => [0x20#8, x.off]
  | .r n, .saddr x => [0x38#8, nib n.num x.cls, x.off]
  | .saddr x, .a => [0x22#8, x.off]
  | .saddr x, .r n => [0x38#8, nib n.num (4 + x.cls), x.off]
  | .a, .sfr o => [0x10#8, o]
  | .r n, .sfr o => [0x38#8, nib n.num 2, o]
  | .sfr o, .a => [0x12#8, o]
  | .sfr o, .r n => [0x38#8, nib n.num 6, o]
  | .saddr x, .saddr y => enc2A 0 0 x y
  | .r n, .abs16 a => [0x3E#8, nib n.num 0] ++ le16 a
  | .abs16 a, .r n => [0x3E#8, nib n.num 1] ++ le16 a
  | .r n, .abs24 a => [0x3E#8, nib n.num 2] ++ hw24 a
  | .abs24 a, .r n => [0x3E#8, nib n.num 3] ++ hw24 a
  | .a, .indP x => x.pre ++ [0x18#8, x.off]
  | .indP x, .a => x.pre ++ [0x19#8, x.off]
  | .a, .indG x => encInd false true 0 x
  | .indG x, .a => encInd true true 0 x
  | .a, .mem (.rind r) => encMovRInd false r
  | .mem (.rind r), .a => encMovRInd true r
  | .a, .mem m => encMem false 0 m
  | .mem m, .a => encMem true 0 m
  | .pswl, .imm b => [0x2B#8, 0xFE#8, b]
  | .pswh, .imm b => [0x2B#8, 0xFF#8, b]
  | .pswl, .a => [0x12#8, 0xFE#8]
  | .pswh, .a => [0x12#8, 0xFF#8]
  | .a, .pswl => [0x10#8, 0xFE#8]
  | .a, .pswh => [0x10#8, 0xFF#8]
  | .ext e, .imm b => [0x07#8, nib 6 (1 + 2 * e.num), b]
  | .a, .ext e => [0x05#8, nib 12 (1 + 2 * e.num)]
  | .ext e, .a => [0x05#8, nib 12 (9 + 2 * e.num)]
  | _, _ => []

/-- `PPP 01 zzz`: the pair in bits 7 to 5. -/
def ppp01 (n : RP) (z : Nat) : Byte := byteOf (32 * n.num + 8 + z)

/-- `1GG 11 zzz`. -/
def gg11 (g : RG) (z : Nat) : Byte := byteOf (128 + 32 * g.num + 24 + z)

def encMovw (d s : Op16) : List Byte :=
  match d, s with
  | .rp n, .imm w => nib 6 n.ppp :: le16 w
  | .saddr x, .imm w => x.pre ++ [0x0C#8, x.off] ++ le16 w
  | .sfr o, .imm w => [0x0B#8, o] ++ le16 w
  | .abs16 a, .imm w => [0x09#8, 0x41#8] ++ le16 a ++ le16 w
  | .abs24 a, .imm w => [0x09#8, 0x51#8] ++ hw24 a ++ le16 w
  | .rp n, .rp m => [0x24#8, ppp01 n m.ppp]
  | .ax, .saddr x => [0x1C#8, x.off]
  | .rp n, .saddr x => [0x38#8, ppp01 n x.cls, x.off]
  | .saddr x, .ax => [0x1A#8, x.off]
  | .saddr x, .rp n => [0x38#8, ppp01 n (4 + x.cls), x.off]
  | .ax, .sfr o => [0x11#8, o]
  | .rp n, .sfr o => [0x38#8, ppp01 n 2, o]
  | .sfr o, .ax => [0x13#8, o]
  | .sfr o, .rp n => [0x38#8, ppp01 n 6, o]
  | .saddr x, .saddr y => enc2A 8 0 x y
  | .rp n, .abs16 a => [0x3E#8, ppp01 n 0] ++ le16 a
  | .abs16 a, .rp n => [0x3E#8, ppp01 n 1] ++ le16 a
  | .rp n, .abs24 a => [0x3E#8, ppp01 n 2] ++ hw24 a
  | .abs24 a, .rp n => [0x3E#8, ppp01 n 3] ++ hw24 a
  | .ax, .indP x => encInd false false 1 x
  | .indP x, .ax => encInd true false 1 x
  | .ax, .indG x => encInd false true 1 x
  | .indG x, .ax => encInd true true 1 x
  | .ax, .mem m => encMem false 1 m
  | .mem m, .ax => encMem true 1 m
  | _, _ => []

def encMovg (d s : Op24) : List Byte :=
  match d, s with
  | .rg g, .imm l => [0x38#8, gg11 g 3] ++ le24 l
  | .rg g, .rg h => [0x24#8, gg11 g (1 + 2 * h.num)]
  | .rg g, .abs24 a => [0x3E#8, gg11 g 2] ++ hw24 a
  | .abs24 a, .rg g => [0x3E#8, gg11 g 3] ++ hw24 a
  | .rg g, .saddr x => [0x38#8, gg11 g x.cls, x.off]
  | .saddr x, .rg g => [0x38#8, gg11 g (4 + x.cls), x.off]
  | .rg _, .indG x => encInd false true 2 x
  | .indG x, .rg _ => encInd true true 2 x
  | .rg _, .mem m => encMem false 2 m
  | .mem m, .rg _ => encMem true 2 m
  | .sp, .imm l => [0x09#8, 0x20#8] ++ le24 l
  | .sp, .rg _ => [0x05#8, 0xFB#8]
  | .rg _, .sp => [0x05#8, 0xFA#8]
  | _, _ => []

def encXch (d s : Op8) : List Byte :=
  match d, s with
  | .r n, .r m => m.pre ++ [0x25#8, nib n.num (m.num % 8)]
  | .a, .r n => n.pre ++ [nib 13 (8 + n.num % 8)]
  | .a, .saddr x => [0x21#8, x.off]
  | .r n, .saddr x => [0x39#8, nib n.num x.cls, x.off]
  | .r n, .sfr o => [0x39#8, nib n.num 2, o]
  | .saddr x, .saddr y => enc2A 0 4 x y
  | .r n, .abs16 a => [0x3E#8, nib n.num 4] ++ le16 a
  | .r n, .abs24 a => [0x3E#8, nib n.num 6] ++ hw24 a
  | .a, .indP x => x.pre ++ [0x23#8, x.off]
  | .a, .indG x => encInd false true 4 x
  | .a, .mem m => encMem false 4 m
  | _, _ => []

def encXchw (d s : Op16) : List Byte :=
  match d, s with
  | .rp n, .rp m => [0x25#8, ppp01 n m.ppp]
  | .ax, .saddr x => [0x1B#8, x.off]
  | .rp n, .saddr x => [0x39#8, ppp01 n x.cls, x.off]
  | .rp n, .sfr o => [0x39#8, ppp01 n 2, o]
  | .ax, .indP x => encInd false false 5 x
  | .ax, .indG x => encInd false true 5 x
  | .ax, .abs16 a => [0x0A#8, 0x45#8] ++ le16 a
  | .ax, .abs24 a => [0x0A#8, 0x55#8] ++ hw24 a
  | .saddr x, .saddr y => enc2A 8 4 x y
  | .ax, .mem m => encMem false 5 m
  | _, _ => []

/-- The eight operations by their code `k` (43_alu8 R380). -/
def encAlu8 (k : Nat) (d s : Op8) : List Byte :=
  match d, s with
  | .a, .imm b => [nib 10 (8 + k), b]
  | .r n, .imm b => [nib 7 (8 + k), nib n.num 3, b]
  | .saddr x, .imm b => x.pre ++ [nib 6 (8 + k), x.off, b]
  | .sfr o, .imm b => [0x01#8, nib 6 (8 + k), o, b]
  | .r n, .r m => m.pre ++ [nib 8 (8 + k), nib n.num (m.num % 8)]
  | .a, .saddr x => [nib 9 (8 + k), x.off]
  | .r n, .saddr x => [nib 7 (8 + k), nib n.num x.cls, x.off]
  | .saddr x, .r n => [nib 7 (8 + k), nib n.num (4 + x.cls), x.off]
  | .r n, .sfr o => [nib 7 (8 + k), nib n.num 2, o]
  | .sfr o, .r n => [nib 7 (8 + k), nib n.num 6, o]
  | .saddr x, .saddr y => enc2A 0 (8 + k) x y
  | .a, .indP x => encInd false false (8 + k) x
  | .indP x, .a => encInd true false (8 + k) x
  | .a, .indG x => encInd false true (8 + k) x
  | .indG x, .a => encInd true true (8 + k) x
  | .a, .abs16 a => [0x0A#8, nib 4 (8 + k)] ++ le16 a
  | .abs16 a, .a => [0x0A#8, nib 12 (8 + k)] ++ le16 a
  | .a, .abs24 a => [0x0A#8, nib 5 (8 + k)] ++ hw24 a
  | .abs24 a, .a => [0x0A#8, nib 13 (8 + k)] ++ hw24 a
  | .a, .mem m => encMem false (8 + k) m
  | .mem m, .a => encMem true (8 + k) m
  | _, _ => []

/-- ADDW, SUBW, CMPW by the operation code `k` (0, 2, 7) and the nibble `x` (13, 14, 15) (R430). -/
def encAlu16 (k x : Nat) (d s : Op16) : List Byte :=
  match d, s with
  | .ax, .imm w => nib 2 x :: le16 w
  | .rp n, .imm w => [nib 7 (8 + k), ppp01 n 3] ++ le16 w
  | .saddr y, .imm w => y.pre ++ [nib 0 x, y.off] ++ le16 w
  | .sfr o, .imm w => [0x01#8, nib 0 x, o] ++ le16 w
  | .rp n, .rp m => [nib 8 (8 + k), ppp01 n m.ppp]
  | .ax, .saddr y => [nib 1 x, y.off]
  | .rp n, .saddr y => [nib 7 (8 + k), ppp01 n y.cls, y.off]
  | .saddr y, .rp n => [nib 7 (8 + k), ppp01 n (4 + y.cls), y.off]
  | .rp n, .sfr o => [nib 7 (8 + k), ppp01 n 2, o]
  | .sfr o, .rp n => [nib 7 (8 + k), ppp01 n 6, o]
  | .saddr y, .saddr z => enc2A 8 x y z
  | _, _ => []

def encAlu24 (k : Nat) (d s : Op24) : List Byte :=
  match d, s with
  | .rg g, .rg h => [nib 8 (8 + k), gg11 g (1 + 2 * h.num)]
  | .rg g, .imm l => [nib 7 (8 + k), gg11 g 3] ++ le24 l
  | .rg _, .saddr x => [nib 7 (8 + k), nib 15 (8 + x.cls), x.off]
  | _, _ => []

/-- INC (k = 0) and DEC (k = 1). -/
def encInc (k : Nat) (o : Op8) : List Byte :=
  match o with
  | .r n => n.pre ++ [nib 12 (8 * k + n.num % 8)]
  | .saddr x => x.pre ++ [nib 2 (6 + k), x.off]
  | _ => []

def encIncw (k : Nat) (o : Op16) : List Byte :=
  match o with
  | .rp n => if n.num < 4 then [0x3E#8, ppp01 n (5 + 2 * k)] else [nib 4 (n.num + 8 * k)]
  | .saddr x => x.pre ++ [0x07#8, nib 14 (8 + k), x.off]
  | _ => []

def encIncg (k : Nat) (o : Op24) : List Byte :=
  match o with
  | .rg g => [0x3E#8, gg11 g (5 + 2 * k)]
  | .sp => [0x05#8, nib 15 (8 + k)]
  | _ => []

/-- Rotates and shifts on r (R193): `b1` is 30H or 31H. -/
def encShift (b1 : Byte) (tt : Nat) (n : R8) (c : Fin 8) : List Byte :=
  n.pre ++ [b1, byteOf (64 * tt + 8 * c.val + n.num % 8)]

def encShiftW (b1 : Byte) (n : RP) (c : Fin 8) : List Byte := [b1, byteOf (192 + 8 * c.val + n.ppp)]

/-- The bytes of a bit operation `op` on `x.b` (R189, 48_bit R560). -/
def encBit (op : Nat) (x : BitLoc) (b : Fin 8) : List Byte :=
  let f0 := nib op b.val
  let f1 := nib op (8 + b.val)
  match x with
  | .saddr y =>
    if op = 8 then y.pre ++ [nib 11 b.val, y.off]
    else if op = 9 then y.pre ++ [nib 10 b.val, y.off]
    else if op = 11 then y.pre ++ [nib 7 b.val, y.off]
    else y.pre ++ [0x08#8, f0, y.off]
  | .sfr o => [0x08#8, f1, o]
  | .regX => [0x03#8, f0]
  | .regA => [0x03#8, f1]
  | .pswl => [0x02#8, f0]
  | .pswh => [0x02#8, f1]
  | .tde => [0x3D#8, f0]
  | .whl => [0x3D#8, f1]
  | .abs16 a => [0x09#8, 0xD0#8, f0] ++ le16 a
  | .abs24 a => [0x09#8, 0xD0#8, f1] ++ hw24 a

/-- CLR1, SET1, NOT1: `op` on a bit, `b1` on CY. -/
def encBitDst (op : Nat) (b1 : Byte) : BitDst → List Byte
  | .cy => [b1]
  | .bit x b => encBit op x b

/-- PUSH (k = 1) and POP (k = 0). -/
def encStack (k : Nat) : StackOp → List Byte
  | .psw => [nib 4 (8 + k)]
  | .sfrp o => [0x07#8, nib 13 (8 + k), o]
  | .sfr o => [0x07#8, nib 13 (10 + k), o]
  | .post p => [nib 3 (4 + k), p]
  | .rg g => [0x09#8, nib (9 - k) (9 + 2 * g.num)]

/-- CALL (c = 1) and BR (c = 0) in the forms they share. -/
def encTarget (c : Nat) : Target → List Byte
  | .abs16 w => byteOf (if c = 1 then 0x28 else 0x2C) :: le16 w
  | .abs20 p => [0x09#8, nib (14 + c) (p.extractLsb' 16 4).toNat] ++ le16 (p.extractLsb' 0 16)
  | .rp n => [0x05#8, nib (4 + c) (8 + n.ppp)]
  | .rg g => [0x05#8, nib (4 + c) (1 + 2 * g.num)]
  | .indRp n => [0x05#8, nib (6 + c) (8 + n.ppp)]
  | .indRg g => [0x05#8, nib (6 + c) (1 + 2 * g.num)]
  | .rel8 d => if c = 1 then [] else [0x14#8, d]
  | .rel16 d => byteOf (if c = 1 then 0x3F else 0x43) :: le16 d

def encString (blk op : Nat) (d : Dir) : List Byte :=
  [0x15#8, nib (2 * blk + match d with | .inc => 0 | .dec => 1) op]

/-- The bytes of a well-formed instruction; `[]` when no row of the table has these operands. -/
def encode (o : Opcodes) (i : Instr) : List Byte :=
  match i with
  | .mov d s => encMov d s
  | .movStbc nb b => [o.movStbc.1, o.movStbc.2, nb, b]
  | .movWdm nb b => [o.movWdm.1, o.movWdm.2, nb, b]
  | .movw d s => encMovw d s
  | .movg d s => encMovg d s
  | .xch d s => encXch d s
  | .xchw d s => encXchw d s
  | .add d s => encAlu8 0 d s
  | .addc d s => encAlu8 1 d s
  | .sub d s => encAlu8 2 d s
  | .subc d s => encAlu8 3 d s
  | .cmp d s => encAlu8 7 d s
  | .and d s => encAlu8 4 d s
  | .or d s => encAlu8 6 d s
  | .xor d s => encAlu8 5 d s
  | .addw d s => encAlu16 0 13 d s
  | .subw d s => encAlu16 2 14 d s
  | .cmpw d s => encAlu16 7 15 d s
  | .addg d s => encAlu24 0 d s
  | .subg d s => encAlu24 2 d s
  | .mulu n => n.pre ++ [0x05#8, nib 0 (8 + n.num % 8)]
  | .muluw n => [0x05#8, nib 2 (8 + n.ppp)]
  | .mulw n => [0x05#8, nib 3 (8 + n.ppp)]
  | .divuw n => n.pre ++ [0x05#8, nib 1 (8 + n.num % 8)]
  | .divux n => [0x05#8, nib 14 (8 + n.ppp)]
  | .macw c => [0x07#8, 0x85#8, c]
  | .macsw c => [0x07#8, 0x95#8, c]
  | .sacw => [0x09#8, 0x64#8, 0x41#8, 0x46#8]
  | .inc o => encInc 0 o
  | .dec o => encInc 1 o
  | .incw o => encIncw 0 o
  | .decw o => encIncw 1 o
  | .incg o => encIncg 0 o
  | .decg o => encIncg 1 o
  | .adjba => [0x05#8, 0xFE#8]
  | .adjbs => [0x05#8, 0xFF#8]
  | .cvtbw => [0x04#8]
  | .ror n c => encShift 0x30#8 1 n c
  | .rol n c => encShift 0x31#8 1 n c
  | .rorc n c => encShift 0x30#8 0 n c
  | .rolc n c => encShift 0x31#8 0 n c
  | .shr n c => encShift 0x30#8 2 n c
  | .shl n c => encShift 0x31#8 2 n c
  | .shrw n c => encShiftW 0x30#8 n c
  | .shlw n c => encShiftW 0x31#8 n c
  | .ror4 m => [0x05#8, nib 8 (8 + m.num)]
  | .rol4 m => [0x05#8, nib 9 (8 + m.num)]
  | .mov1Cy x b => encBit 0 x b
  | .mov1To x b => encBit 1 x b
  | .and1 neg x b => encBit (if neg then 3 else 2) x b
  | .or1 neg x b => encBit (if neg then 5 else 4) x b
  | .xor1 x b => encBit 6 x b
  | .not1 t => encBitDst 7 0x42#8 t
  | .set1 t => encBitDst 8 0x41#8 t
  | .clr1 t => encBitDst 9 0x40#8 t
  | .push o => encStack 1 o
  | .pushu p => [0x37#8, p]
  | .pop o => encStack 0 o
  | .popu p => [0x36#8, p]
  | .addwg w => [0x09#8, 0x28#8] ++ le16 w
  | .subwg w => [0x09#8, 0x2A#8] ++ le16 w
  | .call t => encTarget 1 t
  | .callf a => [nib 9 (a.extractLsb' 8 3).toNat, a.extractLsb' 0 8]
  | .callt t => [byteOf (0xE0 + t.val)]
  | .brk => [0x5E#8]
  | .brkcs n => [0x05#8, nib 13 (8 + n.val)]
  | .ret => [0x56#8]
  | .reti => [0x57#8]
  | .retb => [0x5F#8]
  | .retcs w => 0x29#8 :: le16 w
  | .retcsb w => [0x09#8, 0xB0#8] ++ le16 w
  | .br t => encTarget 0 t
  | .bnz d => [0x80#8, d]
  | .bne d => [0x80#8, d]
  | .bz d => [0x81#8, d]
  | .be d => [0x81#8, d]
  | .bnc d => [0x82#8, d]
  | .bnl d => [0x82#8, d]
  | .bc d => [0x83#8, d]
  | .bl d => [0x83#8, d]
  | .bnv d => [0x84#8, d]
  | .bpo d => [0x84#8, d]
  | .bv d => [0x85#8, d]
  | .bpe d => [0x85#8, d]
  | .bp d => [0x86#8, d]
  | .bn d => [0x87#8, d]
  | .blt d => [0x07#8, 0xF8#8, d]
  | .bge d => [0x07#8, 0xF9#8, d]
  | .ble d => [0x07#8, 0xFA#8, d]
  | .bgt d => [0x07#8, 0xFB#8, d]
  | .bnh d => [0x07#8, 0xFC#8, d]
  | .bh d => [0x07#8, 0xFD#8, d]
  | .bf x b d => encBit 10 x b ++ [d]
  | .bt x b d => encBit 11 x b ++ [d]
  | .btclr x b d => encBit 13 x b ++ [d]
  | .bfset x b d => encBit 12 x b ++ [d]
  | .dbnz .b d => [0x33#8, d]
  | .dbnz .c d => [0x32#8, d]
  | .dbnz (.saddr x) d => x.pre ++ [0x3B#8, x.off, d]
  | .location lo hi => [o.location.1, o.location.2, lo, hi]
  | .sel n => [0x05#8, nib 10 (8 + n.val)]
  | .selAlt n => [0x05#8, nib 11 (8 + n.val)]
  | .swrs => [0x05#8, 0xFC#8]
  | .nop => [0x00#8]
  | .ei => [0x4B#8]
  | .di => [0x4A#8]
  | .chkl o => [0x07#8, 0xC8#8, o]
  | .chkla o => [0x07#8, 0xC9#8, o]
  | .movtblw a c => [0x09#8, 0xA0#8, a, c]
  | .movm d => encString 0 0 d
  | .xchm d => encString 0 1 d
  | .movbk d => encString 1 0 d
  | .xchbk d => encString 1 1 d
  | .cmpme d => encString 0 4 d
  | .cmpmne d => encString 0 5 d
  | .cmpmc d => encString 0 7 d
  | .cmpmnc d => encString 0 6 d
  | .cmpbke d => encString 1 4 d
  | .cmpbkne d => encString 1 5 d
  | .cmpbkc d => encString 1 7 d
  | .cmpbknc d => encString 1 6 d

/-- `k` bytes of a number, the least significant first. -/
def bytesOfNat (k w : Nat) : List Byte :=
  match k with
  | 0 => []
  | k + 1 => byteOf (w % 256) :: bytesOfNat k (w / 256)

/-- Does the decoder read an instruction of exactly `k` bytes from the first `k` bytes of `bs`? -/
def decodesIn (o : Opcodes) (bs : List Byte) (k : Nat) : Bool :=
  match decode o bs with
  | .ok _ rest => decodedLength bs rest == k
  | _ => false

/-- The bytes of a table word, zeros after them up to the longest instruction. The table writes a row's
bits as one number with the first byte most significant; a word that decodes to a row of `nbits` bits
only with the first byte least significant is read so (DESIGN CHOICE, log 45). -/
def tableBytes (o : Opcodes) (nbits w : Nat) : List Byte :=
  let k := nbits / 8
  let up := bytesOfNat k w
  let pad := List.replicate (7 - k) 0x00#8
  if decodesIn o (up.reverse ++ pad) k then up.reverse ++ pad
  else if decodesIn o (up ++ pad) k then up ++ pad
  else up.reverse ++ pad

/-- The instruction the decoder reads from a word of spec/opcode_table.json, which gives the three operation
codes of R194 their defaults. -/
def decodeTableWord (nbits w : Nat) : Option Instr :=
  match decode Opcodes.default (tableBytes Opcodes.default nbits w) with
  | .ok i _ => some i
  | _ => none

end Sys2Proof
end

