-- ==== Sys2Proof/Machine/Memory.lean ====
section
/-! DEFINITION. A sparse byte memory in one canonical form: addresses strictly rising, no entry equal
to what an unlisted address reads as. -/

namespace Sys2Proof.Machine

/-- Bytes by address, in the canonical form of `Memory.wf`. -/
abbrev Memory := List Host.Cell

/-- What an unlisted byte reads as. The spec gives no contents: DESIGN CHOICE 00H (log 3, log 7). -/
def Memory.blank : Byte := 0x00#8

/-- The byte at an address. -/
def Memory.read (m : Memory) (a : Nat) : Byte :=
  match m with
  | [] => Memory.blank
  | c :: m => if c.1 = a then c.2 else Memory.read m a

/-- Write one byte; writing the blank value removes the entry. -/
def Memory.write (m : Memory) (a : Nat) (v : Byte) : Memory :=
  match m with
  | [] => if v = Memory.blank then [] else [(a, v)]
  | c :: m =>
    if c.1 < a then c :: Memory.write m a v
    else if c.1 = a then (if v = Memory.blank then m else (a, v) :: m)
    else (if v = Memory.blank then c :: m else (a, v) :: c :: m)

/-- Is every entry above `lo` and not blank, in rising order? -/
def Memory.above (lo : Nat) (m : Memory) : Bool :=
  match m with
  | [] => true
  | c :: m => decide (lo ≤ c.1) && c.2 != Memory.blank && Memory.above (c.1 + 1) m

/-- The canonical form. -/
def Memory.wf (m : Memory) : Bool := Memory.above 0 m

end Sys2Proof.Machine
end

