-- ==== Sys2Proof/Machine/State.lean ====
section
/-! DEFINITION. The machine's state (10_state R30 and the hidden state of R56) as plain data, the
reasons a step can stop, and the state after reset. -/

namespace Sys2Proof.Machine

/-- The stored bits of the PSW (10_state R32 to R42); PSWL bit 1 and PSWH bits 3 to 0 have none. -/
structure Psw where
  s : Bool
  z : Bool
  rss : Bool
  ac : Bool
  ie : Bool
  pv : Bool
  cy : Bool
  uf : Bool
  rbs : BitVec 3
deriving DecidableEq, Repr

/-- ISPR: the priority levels in service (60_exceptions R840). -/
structure Ispr where
  nmi : Bool
  wdt : Bool
  l0 : Bool
  l1 : Bool
  l2 : Bool
  l3 : Bool
deriving DecidableEq, Repr

/-- A maskable request: source `src` has vector address 00006H + 2*src (R834, R838). -/
structure Request where
  src : Fin 27
  level : Fin 4
  /-- Serviced by context switching instead of vectoring. -/
  ctx : Bool
deriving DecidableEq, Repr

/-- What the host presents at one instruction boundary (R837, R838, R842, R900, R922). -/
structure Boundary where
  reset : Bool
  nmi : Bool
  wdt : Bool
  /-- An unmasked macro service request, with the bytes its service writes. -/
  macroService : Option (List (Long × Byte))
  request : Option Request
  /-- The host releases the standby condition. -/
  release : Bool
deriving DecidableEq, Repr

/-- Everything the spec gives the machine; INVENTORY.md lists each field with its rule. -/
structure State where
  /-- Address of the next instruction; inside `exec`, of the instruction after the running one (R178). -/
  pc : PAddr
  psw : Psw
  sp : Long
  /-- V, U, T, W of the eight banks at bank*4 + {0,1,2,3} (R51, D29). -/
  vutw : Vector Byte 32
  /-- Internal RAM by its LOCATION 0H address, the general registers among it (R53). -/
  ram : Memory
  /-- Internal ROM and external memory by absolute address (20_memory R113, R114). -/
  mem : Memory
  stbc : Byte
  wdm : Byte
  /-- LOCBASE is 0F0000H, not 000000H (20_memory R101). -/
  loc0f : Bool
  /-- LOC_DONE (R56). -/
  locDone : Bool
  ispr : Ispr
  /-- HOLD (R56, 60_exceptions R846). -/
  hold : Bool
  /-- Standby entered through STBC (70_reset_and_hazards R922). -/
  stopped : Bool
  /-- The stuck state of an access to an SFR or memory that does not exist; only reset leaves it (20_memory
  R111, 70_reset_and_hazards R900, D13). -/
  deadlocked : Bool
  /-- No instruction has completed since reset: the boundary is closed (R903). -/
  afterReset : Bool
  /-- What the host presents at the coming boundaries, the next one first. -/
  inputs : List Boundary
  /-- The model's record of the exchanges with the host, newest first (log 9). -/
  io : List IoEvent
  /-- The model's count of undefined values drawn so far (log 8). -/
  draws : Nat
  cfg : Config
deriving DecidableEq, Repr

/-- Why an instruction, or the taking of an interrupt, does not complete. -/
inductive Fault where
  /-- Raised by every access to an SFR offset with no register or to an address with no memory:
  "the CPU may become deadlocked" (20_memory R111, R113, decision D13). `step` turns it into the stuck state
  that only a RESET input leaves. Unsafe only in that a chip may survive the access (log 10). -/
  | deadlock
deriving DecidableEq, Repr

/-- Why the model has no next state. Every one is safe: it claims nothing of what the chip does. -/
inductive Refusal where
  /-- Raised by a dispatch arm whose instruction has no meaning yet. -/
  | notModelled (mnemonic : String)
  /-- Raised by the fetch of bytes that match no row of the opcode table (30_encoding R195, D2). -/
  | undefinedOpcode
  /-- Raised by the fetch of a byte outside internal ROM, PRAM and external memory (20_memory R115, D18). -/
  | fetchOutside
  /-- Raised by MOV WDM on a product without a watchdog timer (52_cpu_control R751, U19). -/
  | noWatchdog
  /-- Raised by MACW and MACSW with B or C = FFH (45_muldiv_mac R480, U7). -/
  | macStraddle
  /-- Raised by MOVTBLW when a word leaves the page 0FE00H to 0FEFFH (53_chkl_string R782, U20). -/
  | tableLeavesPage
deriving DecidableEq, Repr

/-- The machine right after reset (10_state R57, 70_reset_and_hazards R901). With memory listing nothing
the reset vector reads 0000H. The values R57 leaves undefined are named in logs 2 to 6. -/
def State.reset : State where
  pc := 0x00000#20
  psw := { s := false, z := false, rss := false, ac := false, ie := false, pv := false, cy := false,
           uf := false, rbs := 0#3 }
  sp := 0x000000#24
  vutw := Vector.replicate 32 0x00#8
  ram := []
  mem := []
  stbc := 0x00#8
  wdm := 0x00#8
  loc0f := false
  locDone := false
  ispr := { nmi := false, wdt := false, l0 := false, l1 := false, l2 := false, l3 := false }
  hold := false
  stopped := false
  deadlocked := false
  afterReset := true
  inputs := []
  io := []
  draws := 0
  cfg := Config.default

end Sys2Proof.Machine
end

