-- ==== Sys2Proof/Machine/Ops.lean ====
section
/-! DEFINITION. The named operations over registers, PSW and memory, and the two ways an interrupt is
taken and returned from (60_exceptions R835, R841, R843). -/

namespace Sys2Proof.Machine

/-- Why an action stops. -/
inductive Stop where
  | fault (r : Fault)
  | refused (r : Refusal)
deriving DecidableEq, Repr

/-- A computation over the state that may stop. -/
abbrev Act := StateT State (Except Stop)

/-- The outcome of an action. -/
def run (m : Act Unit) (s : State) : Host.Outcome State Fault Refusal :=
  match m s with
  | .ok (_, t) => .next t
  | .error (.fault r) => .fault r
  | .error (.refused r) => .refused r

def refuse {α : Type} (r : Refusal) : Act α := throw (.refused r)

/-- Stuck (20_memory R111) unless `ok`; else the answer and the state of `f`. -/
def guarded {α : Type} (ok : State → Bool) (f : State → α × State) : Act α := fun s =>
  if ok s then .ok (f s) else .error (.fault .deadlock)

/-- Stuck unless `ok`; else the state of `f`. -/
def guardedSet (ok : State → Bool) (f : State → State) : Act Unit := guarded ok fun s => ((), f s)

/-- An undefined value: the next free draw (93_implementation_defined; log 8). -/
def draw : Act (BitVec 32) := do
  let s ← get
  set { s with draws := s.draws + 1 }
  return Config.undef s.draws

/-- Record an exchange with the host. -/
def State.tell (s : State) (e : IoEvent) : State := { s with io := e :: s.io }

/-! ## General registers: bytes of internal RAM (10_state R48 to R53) -/

/-- RegAddr(b, n) at LOCATION 0H (R48). -/
def regKey (b : BitVec 3) (n : R8) : Nat := 0xFE80 + (7 - b.toNat) * 16 + n.num

/-- The low byte of RP(n): R(2n) (R50). -/
def pairKey (b : BitVec 3) (n : RP) : Nat := 0xFE80 + (7 - b.toNat) * 16 + 2 * n.num

/-- Where V, U, T, W of a bank stand in `vutw` (R51, D29). -/
def extIdx (b : BitVec 3) (e : R3) : Fin 32 :=
  ⟨b.toNat * 4 + e.num, by have := b.isLt; cases e <;> simp only [R3.num] <;> omega⟩

def State.ram8 (s : State) (k : Nat) : Byte := Memory.read s.ram k

def State.setRam8 (s : State) (k : Nat) (v : Byte) : State := { s with ram := Memory.write s.ram k v }

def State.ram16 (s : State) (k : Nat) : Word := s.ram8 (k + 1) ++ s.ram8 k

def State.setRam16 (s : State) (k : Nat) (w : Word) : State :=
  (s.setRam8 k (w.extractLsb' 0 8)).setRam8 (k + 1) (w.extractLsb' 8 8)

/-- R(n) of the current bank. -/
def State.r8 (s : State) (n : R8) : Byte := s.ram8 (regKey s.psw.rbs n)

def State.setR8 (s : State) (n : R8) (v : Byte) : State := s.setRam8 (regKey s.psw.rbs n) v

/-- RP(n) of a bank. -/
def State.rpOf (s : State) (b : BitVec 3) (n : RP) : Word := s.ram16 (pairKey b n)

def State.setRpOf (s : State) (b : BitVec 3) (n : RP) (w : Word) : State := s.setRam16 (pairKey b n) w

/-- RP(n) of the current bank. -/
def State.rp (s : State) (n : RP) : Word := s.rpOf s.psw.rbs n

def State.setRp (s : State) (n : RP) (w : Word) : State := s.setRpOf s.psw.rbs n w

/-- V, U, T or W of the current bank. -/
def State.ext (s : State) (e : R3) : Byte := s.vutw[extIdx s.psw.rbs e]

def State.setExt (s : State) (e : R3) (v : Byte) : State :=
  { s with vutw := s.vutw.set (extIdx s.psw.rbs e) v }

/-- RG(g) = EXT(g) : RP(4+g) (R51). -/
def State.rg (s : State) (g : RG) : Long := s.ext g.ext ++ s.rp g.pair

def State.setRg (s : State) (g : RG) (l : Long) : State :=
  (s.setRp g.pair (l.extractLsb' 0 16)).setExt g.ext (l.extractLsb' 16 8)

/-! The names that follow RSS (R52). -/

def State.regA (s : State) : R8 := if s.psw.rss then .r5 else .r1
def State.regX (s : State) : R8 := if s.psw.rss then .r4 else .r0
def State.regB (s : State) : R8 := if s.psw.rss then .r7 else .r3
def State.regC (s : State) : R8 := if s.psw.rss then .r6 else .r2
def State.pairAX (s : State) : RP := if s.psw.rss then .rp2 else .rp0

def State.a (s : State) : Byte := s.r8 s.regA
def State.setA (s : State) (v : Byte) : State := s.setR8 s.regA v
def State.ax (s : State) : Word := s.rp s.pairAX
def State.setAx (s : State) (w : Word) : State := s.setRp s.pairAX w

/-- The 32-bit AXDE: AX the upper word, DE (RP6) the lower (45_muldiv_mac). -/
def State.axde (s : State) : BitVec 32 := s.ax ++ s.rp .rp6

def State.setAxde (s : State) (v : BitVec 32) : State :=
  (s.setAx (v.extractLsb' 16 16)).setRp .rp6 (v.extractLsb' 0 16)

/-! ## SP and PSW -/

/-- Every write of SP keeps only the implemented bits (R47). -/
def State.setSp (s : State) (v : Long) : State := { s with sp := v &&& s.cfg.spMask }

/-- PSWL (R32); bit 1 reads 0 (R40). -/
def Psw.low (p : Psw) : Byte :=
  BitVec.ofBool p.s ++ BitVec.ofBool p.z ++ BitVec.ofBool p.rss ++ BitVec.ofBool p.ac ++
  BitVec.ofBool p.ie ++ BitVec.ofBool p.pv ++ 0#1 ++ BitVec.ofBool p.cy

/-- PSWH with something in the place of the four bits without storage (R40). -/
def Psw.high (p : Psw) (nibble : BitVec 4) : Byte := BitVec.ofBool p.uf ++ p.rbs ++ nibble

def Psw.setLow (p : Psw) (v : Byte) : Psw :=
  { p with s := v.getLsbD 7, z := v.getLsbD 6, rss := v.getLsbD 5, ac := v.getLsbD 4,
           ie := v.getLsbD 3, pv := v.getLsbD 2, cy := v.getLsbD 0 }

def Psw.setHigh (p : Psw) (v : Byte) : Psw := { p with uf := v.getLsbD 7, rbs := v.extractLsb' 4 3 }

/-- A whole PSW from a word: PSWL and PSWH bits 7 to 4 (49_stack R608). -/
def Psw.ofWord (p : Psw) (w : Word) : Psw := (p.setLow (w.extractLsb' 0 8)).setHigh (w.extractLsb' 8 8)

/-- Write one PSWL bit; bit 1 has no storage (48_bit R561). -/
def Psw.setLowBit (p : Psw) (b : Fin 8) (v : Bool) : Psw :=
  match b with
  | 7 => { p with s := v }
  | 6 => { p with z := v }
  | 5 => { p with rss := v }
  | 4 => { p with ac := v }
  | 3 => { p with ie := v }
  | 2 => { p with pv := v }
  | 1 => p
  | 0 => { p with cy := v }

/-- Write one PSWH bit; bits 3 to 0 have no storage (R561, U9). -/
def Psw.setHighBit (p : Psw) (b : Fin 8) (v : Bool) : Psw :=
  match b with
  | 7 => { p with uf := v }
  | 6 => { p with rbs := BitVec.ofBool v ++ p.rbs.extractLsb' 0 2 }
  | 5 => { p with rbs := p.rbs.extractLsb' 2 1 ++ BitVec.ofBool v ++ p.rbs.extractLsb' 0 1 }
  | 4 => { p with rbs := p.rbs.extractLsb' 1 2 ++ BitVec.ofBool v }
  | _ => p

/-- PSWH as an instruction reads it: the low four bits are undefined (R40, U2). -/
def State.lookPswh (s : State) : Byte × State :=
  (s.psw.high ((Config.undef s.draws).extractLsb' 0 4), { s with draws := s.draws + 1 })

/-! ## Memory (20_memory R101 to R115) -/

/-- What an address resolves to (R103, R106). -/
inductive Place where
  /-- Internal RAM, by its LOCATION 0H address. -/
  | ram (k : Nat)
  | sfr (off : Byte)
  | rom (n : Nat)
  | ext (n : Nat)
  | unmapped
deriving DecidableEq, Repr

/-- LOCBASE (R101). -/
def State.locBase (s : State) : Nat := if s.loc0f then 0x0F0000 else 0x000000

/-- Start of internal RAM at LOCATION 0H; IRAM is there on every product (R110). -/
def State.ramBase (s : State) : Nat := min s.cfg.ramStart 0xFD00

/-- The internal data area first, then internal ROM, then external memory (R106). -/
def placeIn (cfg : Config) (base ramBase n : Nat) : Place :=
  if base + 0xFF00 ≤ n ∧ n ≤ base + 0xFFFF then .sfr (BitVec.ofNat 8 n)
  else if base + ramBase ≤ n ∧ n < base + 0xFF00 then .ram (n - base)
  else if n < cfg.romSize then .rom n
  else if cfg.ext.any (fun r => decide (r.1 ≤ n) && decide (n ≤ r.2)) then .ext n
  else .unmapped

/-- What an address resolves to. -/
def State.place (s : State) (a : Long) : Place := placeIn s.cfg s.locBase s.ramBase a.toNat

/-- The product has an SFR at this offset. FEH and FFH are PSW bytes for sfr operands and no SFR for any
other addressing (10_state R54; log 11). -/
def State.sfrMapped (s : State) (off : Byte) : Bool :=
  s.cfg.sfrMask.getLsbD off.toNat && decide (off.toNat < 0xFE)

/-- Ordinary writes do not reach STBC and WDM (decision D14). -/
def State.sfrGuarded (s : State) (off : Byte) : Bool := off == s.cfg.stbcOff || off == s.cfg.wdmOff

/-- A byte of RAM, ROM or external memory; `none` for an SFR and for nothing (no side effect). -/
def State.peekAt (s : State) (p : Place) : Option Byte :=
  match p with
  | .ram k => some (Memory.read s.ram k)
  | .rom n => some (Memory.read s.mem n)
  | .ext n => some (Memory.read s.mem n)
  | _ => none

def State.peek (s : State) (a : Long) : Option Byte := s.peekAt (s.place a)

/-- Does a read of the byte complete? Not on an SFR offset without a register, not where nothing is
(R111, R113). -/
def State.readableAt (s : State) (p : Place) : Bool :=
  match p with
  | .ram _ => true
  | .sfr off => s.sfrMapped off
  | .rom _ => true
  | .ext _ => true
  | .unmapped => false

def State.readable (s : State) (a : Long) : Bool := s.readableAt (s.place a)

/-- Does a write of the byte complete? A write to internal ROM or to STBC and WDM does, without effect. -/
def State.writableAt (s : State) (p : Place) : Bool :=
  match p with
  | .ram _ => true
  | .sfr off => s.sfrGuarded off || s.sfrMapped off
  | .rom _ => true
  | .ext _ => true
  | .unmapped => false

def State.writable (s : State) (a : Long) : Bool := s.writableAt (s.place a)

def State.readableN (s : State) (a : Long) (n : Nat) : Bool :=
  (List.range n).all fun i => s.readable (a + BitVec.ofNat 24 i)

def State.writableN (s : State) (a : Long) (n : Nat) : Bool :=
  (List.range n).all fun i => s.writable (a + BitVec.ofNat 24 i)

/-- `SfrRead(off, n)` (R111, R129): the host's answer, and the exchange recorded. -/
def State.sfrIn (s : State) (off : Byte) (n : Nat) : Long × State :=
  (Config.sfrRead s.io off n, s.tell (.sfrRead off n))

/-- `SfrWrite(off, n, v)`. -/
def State.sfrOut (s : State) (off : Byte) (n : Nat) (v : Long) : State := s.tell (.sfrWrite off n v)

/-- MemRead(a, 1) of a readable byte (R103). -/
def State.lookAt (s : State) (p : Place) : Byte × State :=
  match p with
  | .ram k => (Memory.read s.ram k, s)
  | .sfr off => let p := s.sfrIn off 1; (p.1.setWidth 8, p.2)
  | .rom n => (Memory.read s.mem n, s)
  | .ext n => (Memory.read s.mem n, s)
  | .unmapped => (Memory.blank, s)

def State.look (s : State) (a : Long) : Byte × State := s.lookAt (s.place a)

/-- MemWrite(a, 1, v) of a writable byte (R103); a write to internal ROM is ignored (U21), and so is an
ordinary write to STBC or WDM (D14). -/
def State.storeAt (s : State) (p : Place) (v : Byte) : State :=
  match p with
  | .ram k => s.setRam8 k v
  | .sfr off => if s.sfrGuarded off then s else s.sfrOut off 1 (v.setWidth 24)
  | .rom _ => s
  | .ext n => { s with mem := Memory.write s.mem n v }
  | .unmapped => s

def State.store (s : State) (a : Long) (v : Byte) : State := s.storeAt (s.place a) v

/-- The SFR offset of an `n`-byte access that lies wholly on SFRs the product has: one access of the host
(R128, R129; log 36). At an odd offset too, where R104 and D3 could be read as one access a byte: the model's
choice (DESIGN CHOICE, log 36). -/
def State.sfrSpanAt (s : State) (p : Place) (n : Nat) : Option Byte :=
  match p with
  | .sfr off =>
    if decide (off.toNat + n ≤ 0xFE) && (List.range n).all (fun i => s.sfrMapped (off + BitVec.ofNat 8 i))
    then some off else none
  | _ => none

def State.sfrSpan (s : State) (a : Long) (n : Nat) : Option Byte := s.sfrSpanAt (s.place a) n

/-- The same for a write, which must not cover STBC or WDM. -/
def State.sfrSpanW (s : State) (a : Long) (n : Nat) : Option Byte :=
  match s.sfrSpan a n with
  | some off =>
    if (List.range n).any (fun i => s.sfrGuarded (off + BitVec.ofNat 8 i)) then none else some off
  | none => none

/-- MemRead(a, 2). -/
def State.look16 (s : State) (a : Long) : Word × State :=
  match s.sfrSpan a 2 with
  | some off => let p := s.sfrIn off 2; (p.1.setWidth 16, p.2)
  | none =>
    let lo := s.look a
    let hi := lo.2.look (a + 1)
    (hi.1 ++ lo.1, hi.2)

/-- MemRead(a, 3). -/
def State.look24 (s : State) (a : Long) : Long × State :=
  match s.sfrSpan a 3 with
  | some off => s.sfrIn off 3
  | none =>
    let lo := s.look a
    let mid := lo.2.look (a + 1)
    let hi := mid.2.look (a + 2)
    (hi.1 ++ mid.1 ++ lo.1, hi.2)

/-- MemWrite(a, 2, w). -/
def State.store16 (s : State) (a : Long) (w : Word) : State :=
  match s.sfrSpanW a 2 with
  | some off => s.sfrOut off 2 (w.setWidth 24)
  | none => (s.store a (w.extractLsb' 0 8)).store (a + 1) (w.extractLsb' 8 8)

/-- MemWrite(a, 3, l). -/
def State.store24 (s : State) (a : Long) (l : Long) : State :=
  match s.sfrSpanW a 3 with
  | some off => s.sfrOut off 3 l
  | none =>
    ((s.store a (l.extractLsb' 0 8)).store (a + 1) (l.extractLsb' 8 8)).store (a + 2) (l.extractLsb' 16 8)

/-! The same as actions: an access that does not complete leaves the CPU stuck (R111, R113, D13). -/

def readByte (a : Long) : Act Byte := guarded (·.readable a) (·.look a)
def readMem16 (a : Long) : Act Word := guarded (·.readableN a 2) (·.look16 a)
def readMem24 (a : Long) : Act Long := guarded (·.readableN a 3) (·.look24 a)
def writeByte (a : Long) (v : Byte) : Act Unit := guardedSet (·.writable a) (·.store a v)
def writeMem16 (a : Long) (w : Word) : Act Unit := guardedSet (·.writableN a 2) (·.store16 a w)
def writeMem24 (a : Long) (l : Long) : Act Unit := guardedSet (·.writableN a 3) (·.store24 a l)

/-! ## Stack (49_stack R600, 50_call_return R640) -/

/-- Push(2, w): write below SP, then lower SP. -/
def State.push16 (s : State) (w : Word) : State := (s.store16 (s.sp - 2) w).setSp (s.sp - 2)

/-- Push(3, l). -/
def State.push24 (s : State) (l : Long) : State := (s.store24 (s.sp - 3) l).setSp (s.sp - 3)

/-- Pop(2). -/
def State.pop16 (s : State) : Word × State :=
  let p := s.look16 s.sp
  (p.1, p.2.setSp (s.sp + 2))

/-- Pop(3). -/
def State.pop24 (s : State) : Long × State :=
  let p := s.look24 s.sp
  (p.1, p.2.setSp (s.sp + 3))

def push16 (w : Word) : Act Unit := guardedSet (fun s => s.writableN (s.sp - 2) 2) (·.push16 w)
def push24 (l : Long) : Act Unit := guardedSet (fun s => s.writableN (s.sp - 3) 3) (·.push24 l)
def pop16 : Act Word := guarded (fun s => s.readableN s.sp 2) (·.pop16)
def pop24 : Act Long := guarded (fun s => s.readableN s.sp 3) (·.pop24)

/-- PushRet (R640): bits 19 to 16 in the low four bits of the third byte, 0 above them (D4). -/
def pushRet (ret : PAddr) : Act Unit := push24 (ret.setWidth 24)

/-- PopRet (R640). -/
def popRet : Act PAddr := return (← pop24).setWidth 20

def jump (p : PAddr) : Act Unit := modify fun s => { s with pc := p }

/-! ## Taking an interrupt and returning from one (60_exceptions) -/

/-- The word that carries the PSW and PC bits 19 to 16: second half of the stack frame and RP3 (R835, R841). -/
def Psw.frame (p : Psw) (ret : PAddr) : Word := p.high (ret.extractLsb' 16 4) ++ p.low

/-- Acknowledge(vec, ret) (R835): save PC and PSW on the stack, clear IE, go to the word at `vec`. The frame is
written as two words for every source, as R835 lists it; 50_call_return R650 and R833 list four bytes for BRK and
the operand error, which a host could tell apart on a stack of SFRs (DESIGN CHOICE, log 52). -/
def State.acknowledge (s : State) (vec : Nat) (ret : PAddr) : State :=
  let t := ((s.store16 (s.sp - 4) (ret.extractLsb' 0 16)).store16 (s.sp - 2) (s.psw.frame ret)).setSp (s.sp - 4)
  let p := t.look16 (BitVec.ofNat 24 vec)
  { p.2 with pc := p.1.setWidth 20, psw := { s.psw with ie := false } }

def acknowledge (vec : Nat) (ret : PAddr) : Act Unit :=
  guardedSet (fun s => s.writableN (s.sp - 4) 4 && s.readableN (BitVec.ofNat 24 vec) 2) (·.acknowledge vec ret)

/-- Restore PC and PSW from the 4-byte frame (50_call_return R653, R654). -/
def State.returnFromStack (s : State) : State :=
  let lo := s.look16 s.sp
  let hi := lo.2.look16 (s.sp + 2)
  { hi.2.setSp (s.sp + 4) with psw := s.psw.ofWord hi.1, pc := hi.1.extractLsb' 8 4 ++ lo.1 }

def returnFromStack : Act Unit := guardedSet (fun s => s.readableN s.sp 4) (·.returnFromStack)

/-- Context switch to bank `n` (R651, R841): PC and RP2 of bank n exchange, PSW and PC bits 19 to 16 go to
RP3 of bank n, RBS becomes n, RSS and IE become 0. -/
def State.contextSwitch (s : State) (n : BitVec 3) (ret : PAddr) : State :=
  let target := s.rpOf n .rp2
  let s1 := (s.setRpOf n .rp2 (ret.extractLsb' 0 16)).setRpOf n .rp3 (s.psw.frame ret)
  { s1 with pc := target.setWidth 20, psw := { s1.psw with rbs := n, rss := false, ie := false } }

/-- Return from a context switch (R655, R656): PC and PSW from RP2 and RP3 of the bank being left, whose
RP2 takes the operand. -/
def State.contextReturn (s : State) (w : Word) : State :=
  let a := s.rp .rp2
  let b := s.rp .rp3
  let s1 := s.setRp .rp2 w
  { s1 with psw := s1.psw.ofWord b, pc := b.extractLsb' 8 4 ++ a }

/-- Remove the highest level in service: NMI, WDT, then 0 to 3 (R840; no effect when empty). -/
def Ispr.clearHighest (i : Ispr) : Ispr :=
  if i.nmi then { i with nmi := false }
  else if i.wdt then { i with wdt := false }
  else if i.l0 then { i with l0 := false }
  else if i.l1 then { i with l1 := false }
  else if i.l2 then { i with l2 := false }
  else { i with l3 := false }

/-- Add a maskable level. -/
def Ispr.add (i : Ispr) (level : Fin 4) : Ispr :=
  match level with
  | 0 => { i with l0 := true }
  | 1 => { i with l1 := true }
  | 2 => { i with l2 := true }
  | 3 => { i with l3 := true }

/-- Is the level strictly higher than every level in service? (R840) -/
def Ispr.allows (i : Ispr) (level : Fin 4) : Bool :=
  !(i.nmi || i.wdt || i.l0 || (decide (1 ≤ level.val) && i.l1) || (decide (2 ≤ level.val) && i.l2)
    || (decide (3 ≤ level.val) && i.l3))

/-- Vector addresses (20_memory R107). -/
def vecNmi : Nat := 0x02
def vecWdt : Nat := 0x04
def vecOperandError : Nat := 0x3C
def vecBrk : Nat := 0x3E

/-- The operand error interrupt (R833). The three instructions that raise it are 4 bytes long; `pc` is past
them, and OPERR_SAVED_PC says which address is saved (D28). -/
def operandError : Act Unit := do
  let s ← get
  acknowledge vecOperandError (if s.cfg.operrSavesNext then s.pc else s.pc - 4)

end Sys2Proof.Machine
end

