-- ==== Sys2Proof/Machine/Flags.lean ====
section
/-! DEFINITION. The flag functions of 10_state R43 to R45 and the ways instructions write S, Z, AC, P/V, CY. -/

namespace Sys2Proof.Machine

/-- The outputs of ADDn and SUBn (10_state R43, R44). -/
structure Arith (n : Nat) where
  res : BitVec n
  s : Bool
  z : Bool
  ac : Bool
  v : Bool
  cy : Bool
deriving DecidableEq, Repr

/-- ADDn(a, b, cin) (R43). -/
def addN {n : Nat} (a b : BitVec n) (cin : Bool) : Arith n :=
  let sum := a.toNat + b.toNat + cin.toNat
  let res := BitVec.ofNat n sum
  let cy := decide (2 ^ n ≤ sum)
  let half := 2 ^ (n - 1)
  let cinMsb := decide (half ≤ a.toNat % half + b.toNat % half + cin.toNat)
  { res := res
    s := res.msb
    z := res == 0#n
    ac := decide (16 ≤ a.toNat % 16 + b.toNat % 16 + cin.toNat)
    v := cinMsb != cy
    cy := cy }

/-- SUBn(a, b, bin) (R44). -/
def subN {n : Nat} (a b : BitVec n) (bin : Bool) : Arith n :=
  let dif : Int := (a.toNat : Int) - b.toNat - bin.toNat
  let res := BitVec.ofInt n dif
  let cy := decide (dif < 0)
  let half := 2 ^ (n - 1)
  let binMsb := decide (((a.toNat % half : Nat) : Int) - (b.toNat % half : Nat) - bin.toNat < 0)
  { res := res
    s := res.msb
    z := res == 0#n
    ac := decide (((a.toNat % 16 : Nat) : Int) - (b.toNat % 16 : Nat) - bin.toNat < 0)
    v := binMsb != cy
    cy := cy }

/-- PAR8(v): the number of 1 bits is even (R45). -/
def par8 (v : Byte) : Bool := decide (((List.range 8).countP fun i => v.getLsbD i) % 2 = 0)

/-- All five flags from an 8-bit sum or difference (43_alu8 R381 to R385). -/
def Psw.withArith (p : Psw) (r : Arith 8) : Psw :=
  { p with s := r.s, z := r.z, ac := r.ac, pv := r.v, cy := r.cy }

/-- S, Z, P/V, CY from a 16- or 24-bit sum or difference, AC from an undefined value (44_alu16_24, U5). -/
def Psw.withWide {n : Nat} (p : Psw) (r : Arith n) (ac : Bool) : Psw :=
  { p with s := r.s, z := r.z, ac := ac, pv := r.v, cy := r.cy }

/-- S, Z and parity of a logical result; AC and CY stay (R45, 43_alu8 R386). -/
def Psw.withLogic (p : Psw) (v : Byte) : Psw := { p with s := v.msb, z := v == 0#8, pv := par8 v }

/-- INC and DEC write S, Z, AC, P/V and keep CY (46_incdec_adjust R500). -/
def Psw.withIncDec (p : Psw) (r : Arith 8) : Psw := { p with s := r.s, z := r.z, ac := r.ac, pv := r.v }

/-- The flags of ADD, SUB, CMP and their kin, written to the state. -/
def setArith (r : Arith 8) : Act Unit := modify fun s => { s with psw := s.psw.withArith r }

/-- The flags of the 16- and 24-bit operations; AC takes bit 0 of a draw. -/
def setWide {n : Nat} (r : Arith n) : Act Unit := do
  let v ← draw
  modify fun s => { s with psw := s.psw.withWide r (v.getLsbD 0) }

def setLogic (v : Byte) : Act Unit := modify fun s => { s with psw := s.psw.withLogic v }

def setIncDec (r : Arith 8) : Act Unit := modify fun s => { s with psw := s.psw.withIncDec r }

/-- CY as a bit accumulator. -/
def State.setCy (s : State) (v : Bool) : State := { s with psw := { s.psw with cy := v } }

end Sys2Proof.Machine
end

