-- ==== Sys2Proof/Machine/Operands.lean ====
section
/-! DEFINITION. Operands: effective addresses (20_memory R116 to R126), where each operand lives, and the
read and write of that place. A place is computed once; the bank it names is the one selected when it is
computed. -/

namespace Sys2Proof.Machine

/-! ## Effective addresses -/

/-- ea_saddr1, ea_saddr2 (R116). -/
def State.eaSaddr (s : State) (x : Saddr) : Long :=
  match x with
  | .s1 b => BitVec.ofNat 24 (s.locBase + 0xFE00 + b.toNat)
  | .s2 b => BitVec.ofNat 24 (s.locBase + (if b.toNat < 0x20 then 0xFF00 else 0xFD00) + b.toNat)

/-- ea_sfr (R117). -/
def State.eaSfr (s : State) (o : Byte) : Long := BitVec.ofNat 24 (s.locBase + 0xFF00 + o.toNat)

/-- The register of register indirect addressing (R121). -/
def RInd.reg : RInd → RG
  | .tdeInc | .tdeDec | .tde => .tde
  | .whlInc | .whlDec | .whl => .whl
  | .vvp => .vvp
  | .uup => .uup

/-- The base of based addressing (R122). -/
def State.based (s : State) (r : BasedReg) : Long :=
  match r with
  | .tde => s.rg .tde
  | .sp => s.sp
  | .whl => s.rg .whl
  | .uup => s.rg .uup
  | .vvp => s.rg .vvp

/-- The index of indexed addressing, extended with zeros (R123). -/
def State.index (s : State) (r : IdxReg) : Long :=
  match r with
  | .de => (s.rp .rp6).setWidth 24
  | .hl => (s.rp .rp7).setWidth 24
  | .a => (s.r8 s.regA).setWidth 24
  | .b => (s.r8 s.regB).setWidth 24

/-- Base plus offset register of based indexed addressing (R124). -/
def State.basedIndex (s : State) (x : BIdx) : Long :=
  match x with
  | .tdeA => s.rg .tde + (s.r8 s.regA).setWidth 24
  | .whlA => s.rg .whl + (s.r8 s.regA).setWidth 24
  | .tdeB => s.rg .tde + (s.r8 s.regB).setWidth 24
  | .whlB => s.rg .whl + (s.r8 s.regB).setWidth 24
  | .vvpDe => s.rg .vvp + (s.rp .rp6).setWidth 24
  | .vvpHl => s.rg .vvp + (s.rp .rp7).setWidth 24
  | .tdeC => s.rg .tde + (s.r8 s.regC).setWidth 24
  | .whlC => s.rg .whl + (s.r8 s.regC).setWidth 24

/-- The effective address of a `mem` operand (R121 to R124); sums are modulo 2^24. -/
def State.eaMem (s : State) (m : Mem) : Long :=
  match m with
  | .rind r => s.rg (RInd.reg r)
  | .based r off => s.based r + off.setWidth 24
  | .indexed r base => base + s.index r
  | .bidx x => s.basedIndex x

/-- Auto-increment and auto-decrement after an access of `n` bytes (R121). -/
def State.bump (s : State) (m : Mem) (n : Nat) : State :=
  match m with
  | .rind .tdeInc => s.setRg .tde (s.rg .tde + BitVec.ofNat 24 n)
  | .rind .whlInc => s.setRg .whl (s.rg .whl + BitVec.ofNat 24 n)
  | .rind .tdeDec => s.setRg .tde (s.rg .tde - BitVec.ofNat 24 n)
  | .rind .whlDec => s.setRg .whl (s.rg .whl - BitVec.ofNat 24 n)
  | _ => s

/-- The address of mem3 (R125). -/
def State.eaMem3 (s : State) (m : Mem3) : Long :=
  match m with
  | .rp0 => (s.rp .rp0).setWidth 24
  | .vvp => s.rg .vvp
  | .rp1 => (s.rp .rp1).setWidth 24
  | .uup => s.rg .uup
  | .rp2 => (s.rp .rp2).setWidth 24
  | .tde => s.rg .tde
  | .rp3 => (s.rp .rp3).setWidth 24
  | .whl => s.rg .whl

/-- `[saddrp]`: the pointer is a word of the short direct area, extended with zeros (R119). -/
def State.lookIndP (s : State) (x : Saddr) : Long × State :=
  let p := s.look16 (s.eaSaddr x)
  (p.1.setWidth 24, p.2)

/-- `[%saddrg]`: the pointer is three bytes of the short direct area (R120). -/
def State.lookIndG (s : State) (x : Saddr) : Long × State := s.look24 (s.eaSaddr x)

/-! ## 8-bit operands -/

/-- Where an 8-bit operand lives. -/
inductive Loc8 where
  /-- A register: a byte of internal RAM by its LOCATION 0H address. -/
  | ram (k : Nat)
  | imm (b : Byte)
  | mem (a : Long)
  | pswl
  | pswh
  | ext (i : Fin 32)
deriving DecidableEq, Repr

/-- An sfr operand: FEH and FFH are the two PSW bytes (10_state R54, D30). -/
def State.sfrLoc (s : State) (o : Byte) : Loc8 :=
  if o = 0xFE#8 then .pswl else if o = 0xFF#8 then .pswh else .mem (s.eaSfr o)

/-- Can the pointer of an indirect operand be read? -/
def State.pointerOk8 (s : State) (o : Op8) : Bool :=
  match o with
  | .indP x => s.readableN (s.eaSaddr x) 2
  | .indG x => s.readableN (s.eaSaddr x) 3
  | _ => true

/-- The place of an operand; an indirect operand reads its pointer. -/
def State.locate8 (s : State) (o : Op8) : Loc8 × State :=
  match o with
  | .a => (.ram (regKey s.psw.rbs s.regA), s)
  | .r n => (.ram (regKey s.psw.rbs n), s)
  | .imm b => (.imm b, s)
  | .saddr x => (.mem (s.eaSaddr x), s)
  | .sfr o => (s.sfrLoc o, s)
  | .indP x => let p := s.lookIndP x; (.mem p.1, p.2)
  | .indG x => let p := s.lookIndG x; (.mem p.1, p.2)
  | .abs16 w => (.mem (w.setWidth 24), s)
  | .abs24 l => (.mem l, s)
  | .mem m => (.mem (s.eaMem m), s)
  | .pswl => (.pswl, s)
  | .pswh => (.pswh, s)
  | .ext e => (.ext (extIdx s.psw.rbs e), s)

def Loc8.readable (l : Loc8) (s : State) : Bool :=
  match l with
  | .mem a => s.readable a
  | _ => true

def Loc8.writable (l : Loc8) (s : State) : Bool :=
  match l with
  | .mem a => s.writable a
  | _ => true

def Loc8.look (l : Loc8) (s : State) : Byte × State :=
  match l with
  | .ram k => (s.ram8 k, s)
  | .imm b => (b, s)
  | .mem a => s.look a
  | .pswl => (s.psw.low, s)
  | .pswh => s.lookPswh
  | .ext i => (s.vutw[i], s)

def Loc8.store (l : Loc8) (v : Byte) (s : State) : State :=
  match l with
  | .ram k => s.setRam8 k v
  | .imm _ => s
  | .mem a => s.store a v
  | .pswl => { s with psw := s.psw.setLow v }
  | .pswh => { s with psw := s.psw.setHigh v }
  | .ext i => { s with vutw := s.vutw.set i v }

def loc8 (o : Op8) : Act Loc8 := guarded (·.pointerOk8 o) (·.locate8 o)
def read8 (l : Loc8) : Act Byte := guarded l.readable l.look
def write8 (l : Loc8) (v : Byte) : Act Unit := guardedSet l.writable (l.store v)

/-- The pointer update after the access, for a `mem` operand of `n` bytes. -/
def State.after8 (s : State) (o : Op8) : State :=
  match o with
  | .mem m => s.bump m 1
  | _ => s

/-- The two operands of an instruction: their places, and what was read of them. -/
structure Pair8 where
  ld : Loc8
  ls : Loc8
  a : Byte
  b : Byte
deriving DecidableEq, Repr

/-- Both operands located, then both read, destination first (43_alu8 R380). -/
def both8 (d s : Op8) : Act Pair8 := do
  let ld ← loc8 d
  let ls ← loc8 s
  let a ← read8 ld
  let b ← read8 ls
  return ⟨ld, ls, a, b⟩

/-! ## 16-bit operands -/

inductive Loc16 where
  | ram (k : Nat)
  | imm (w : Word)
  | mem (a : Long)
  /-- An sfrp operand one of whose bytes is a PSW byte: offset FDH, FEH or FFH. -/
  | pswSfr (o : Byte)
deriving DecidableEq, Repr

def State.pointerOk16 (s : State) (o : Op16) : Bool :=
  match o with
  | .indP x => s.readableN (s.eaSaddr x) 2
  | .indG x => s.readableN (s.eaSaddr x) 3
  | _ => true

def State.locate16 (s : State) (o : Op16) : Loc16 × State :=
  match o with
  | .ax => (.ram (pairKey s.psw.rbs s.pairAX), s)
  | .rp n => (.ram (pairKey s.psw.rbs n), s)
  | .imm w => (.imm w, s)
  | .saddr x => (.mem (s.eaSaddr x), s)
  | .sfr o => (if 0xFD ≤ o.toNat then .pswSfr o else .mem (s.eaSfr o), s)
  | .indP x => let p := s.lookIndP x; (.mem p.1, p.2)
  | .indG x => let p := s.lookIndG x; (.mem p.1, p.2)
  | .abs16 w => (.mem (w.setWidth 24), s)
  | .abs24 l => (.mem l, s)
  | .mem m => (.mem (s.eaMem m), s)

/-- The high byte of an sfrp operand at FDH, FEH or FFH: the next sfr offset, or plain memory after FFH. -/
def State.sfrNext (s : State) (o : Byte) : Loc8 :=
  if o = 0xFF#8 then .mem (s.eaSfr 0xFF#8 + 1) else s.sfrLoc (o + 1)

def Loc16.readable (l : Loc16) (s : State) : Bool :=
  match l with
  | .mem a => s.readableN a 2
  | .pswSfr o => (s.sfrLoc o).readable s && (s.sfrNext o).readable s
  | _ => true

def Loc16.writable (l : Loc16) (s : State) : Bool :=
  match l with
  | .mem a => s.writableN a 2
  | .pswSfr o => (s.sfrLoc o).writable s && (s.sfrNext o).writable s
  | _ => true

def Loc16.look (l : Loc16) (s : State) : Word × State :=
  match l with
  | .ram k => (s.ram16 k, s)
  | .imm w => (w, s)
  | .mem a => s.look16 a
  | .pswSfr o =>
    let lo := (s.sfrLoc o).look s
    let hi := (s.sfrNext o).look lo.2
    (hi.1 ++ lo.1, hi.2)

def Loc16.store (l : Loc16) (w : Word) (s : State) : State :=
  match l with
  | .ram k => s.setRam16 k w
  | .imm _ => s
  | .mem a => s.store16 a w
  | .pswSfr o => (s.sfrNext o).store (w.extractLsb' 8 8) ((s.sfrLoc o).store (w.extractLsb' 0 8) s)

def loc16 (o : Op16) : Act Loc16 := guarded (·.pointerOk16 o) (·.locate16 o)
def read16 (l : Loc16) : Act Word := guarded l.readable l.look
def write16 (l : Loc16) (w : Word) : Act Unit := guardedSet l.writable (l.store w)

def State.after16 (s : State) (o : Op16) : State :=
  match o with
  | .mem m => s.bump m 2
  | _ => s

structure Pair16 where
  ld : Loc16
  ls : Loc16
  a : Word
  b : Word
deriving DecidableEq, Repr

def both16 (d s : Op16) : Act Pair16 := do
  let ld ← loc16 d
  let ls ← loc16 s
  let a ← read16 ld
  let b ← read16 ls
  return ⟨ld, ls, a, b⟩

/-! ## 24-bit operands -/

inductive Loc24 where
  /-- A 24-bit register: its pair in internal RAM and its extension byte. -/
  | reg (k : Nat) (i : Fin 32)
  | imm (l : Long)
  | mem (a : Long)
  | sp
deriving DecidableEq, Repr

def State.pointerOk24 (s : State) (o : Op24) : Bool :=
  match o with
  | .indG x => s.readableN (s.eaSaddr x) 3
  | _ => true

def State.locate24 (s : State) (o : Op24) : Loc24 × State :=
  match o with
  | .rg g => (.reg (pairKey s.psw.rbs g.pair) (extIdx s.psw.rbs g.ext), s)
  | .imm l => (.imm l, s)
  | .saddr x => (.mem (s.eaSaddr x), s)
  | .indG x => let p := s.lookIndG x; (.mem p.1, p.2)
  | .abs24 l => (.mem l, s)
  | .mem m => (.mem (s.eaMem m), s)
  | .sp => (.sp, s)

def Loc24.readable (l : Loc24) (s : State) : Bool :=
  match l with
  | .mem a => s.readableN a 3
  | _ => true

def Loc24.writable (l : Loc24) (s : State) : Bool :=
  match l with
  | .mem a => s.writableN a 3
  | _ => true

def Loc24.look (l : Loc24) (s : State) : Long × State :=
  match l with
  | .reg k i => (s.vutw[i] ++ s.ram16 k, s)
  | .imm v => (v, s)
  | .mem a => s.look24 a
  | .sp => (s.sp, s)

def Loc24.store (l : Loc24) (v : Long) (s : State) : State :=
  match l with
  | .reg k i =>
    let t := s.setRam16 k (v.extractLsb' 0 16)
    { t with vutw := t.vutw.set i (v.extractLsb' 16 8) }
  | .imm _ => s
  | .mem a => s.store24 a v
  | .sp => s.setSp v

def loc24 (o : Op24) : Act Loc24 := guarded (·.pointerOk24 o) (·.locate24 o)
def read24 (l : Loc24) : Act Long := guarded l.readable l.look
def write24 (l : Loc24) (v : Long) : Act Unit := guardedSet l.writable (l.store v)

def State.after24 (s : State) (o : Op24) : State :=
  match o with
  | .mem m => s.bump m 3
  | _ => s

structure Pair24 where
  ld : Loc24
  ls : Loc24
  a : Long
  b : Long
deriving DecidableEq, Repr

def both24 (d s : Op24) : Act Pair24 := do
  let ld ← loc24 d
  let ls ← loc24 s
  let a ← read24 ld
  let b ← read24 ls
  return ⟨ld, ls, a, b⟩

/-! ## Bit operands (48_bit R560, R561) -/

def State.locateBit (s : State) (x : BitLoc) : Loc8 :=
  match x with
  | .saddr y => .mem (s.eaSaddr y)
  | .sfr o => s.sfrLoc o
  | .regX => .ram (regKey s.psw.rbs s.regX)
  | .regA => .ram (regKey s.psw.rbs s.regA)
  | .pswl => .pswl
  | .pswh => .pswh
  | .tde => .mem (s.rg .tde)
  | .whl => .mem (s.rg .whl)
  | .abs16 w => .mem (w.setWidth 24)
  | .abs24 l => .mem l

/-- Replace one bit of a byte. -/
def setBitOf (t : Byte) (b : Fin 8) (v : Bool) : Byte :=
  if v then t ||| (0x01#8 <<< b.val) else t &&& ~~~(0x01#8 <<< b.val)

/-- The byte a bit operand lies in, read once. Of PSWH only the bits without storage are undefined (U2). -/
def Loc8.lookBit (l : Loc8) (b : Fin 8) (s : State) : Byte × State :=
  match l with
  | .pswh => if b.val < 4 then s.lookPswh else (s.psw.high 0#4, s)
  | _ => l.look s

/-- Write bit `b` of the byte whose value `t` was just read; of the PSW only that bit (R561). -/
def Loc8.storeBit (l : Loc8) (t : Byte) (b : Fin 8) (v : Bool) (s : State) : State :=
  match l with
  | .pswl => { s with psw := s.psw.setLowBit b v }
  | .pswh => { s with psw := s.psw.setHighBit b v }
  | _ => l.store (setBitOf t b v) s

/-- Read a bit. -/
def readBit (x : BitLoc) (b : Fin 8) : Act Bool :=
  guarded (fun s => (s.locateBit x).readable s) fun s =>
    let p := (s.locateBit x).lookBit b s
    (p.1.getLsbD b.val, p.2)

/-- WriteBit with the new bit computed from the old one: one read, one write (R561, D7). -/
def changeBit (x : BitLoc) (b : Fin 8) (f : Bool → Bool) : Act Unit :=
  guardedSet (fun s => (s.locateBit x).readable s && (s.locateBit x).writable s) fun s =>
    let p := (s.locateBit x).lookBit b s
    (s.locateBit x).storeBit p.1 b (f (p.1.getLsbD b.val)) p.2

end Sys2Proof.Machine
end

