-- ==== Sys2Proof/Machine/Arith8.lean ====
section
/-! DEFINITION. ADD, ADDC, SUB, SUBC, CMP, AND, OR, XOR (43_alu8). -/

namespace Sys2Proof.Machine

/-- `OP dst, src` with a sum or a difference (R380): dst read, src read, flags, dst written if `store`. -/
def arith8 (f : Byte → Byte → Bool → Arith 8) (store : Bool) (d s : Op8) : Act Unit := do
  let x ← both8 d s
  let r := f x.a x.b (← get).psw.cy
  setArith r
  if store then write8 x.ld r.res
  modify fun t => (t.after8 d).after8 s

/-- `OP dst, src` with a logical operation (R386 to R388). -/
def logic8 (f : Byte → Byte → Byte) (d s : Op8) : Act Unit := do
  let x ← both8 d s
  setLogic (f x.a x.b)
  write8 x.ld (f x.a x.b)
  modify fun t => (t.after8 d).after8 s

/-- ADD (R381). -/
def execAdd (d s : Op8) (st : State) : Host.Outcome State Fault Refusal :=
  run (arith8 (fun a b _ => addN a b false) true d s) st

/-- ADDC (R382). -/
def execAddc (d s : Op8) (st : State) : Host.Outcome State Fault Refusal :=
  run (arith8 (fun a b cy => addN a b cy) true d s) st

/-- SUB (R383). -/
def execSub (d s : Op8) (st : State) : Host.Outcome State Fault Refusal :=
  run (arith8 (fun a b _ => subN a b false) true d s) st

/-- SUBC (R384). -/
def execSubc (d s : Op8) (st : State) : Host.Outcome State Fault Refusal :=
  run (arith8 (fun a b cy => subN a b cy) true d s) st

/-- CMP (R385): the flags of SUB, nothing stored. -/
def execCmp (d s : Op8) (st : State) : Host.Outcome State Fault Refusal :=
  run (arith8 (fun a b _ => subN a b false) false d s) st

/-- AND (R386). -/
def execAnd (d s : Op8) (st : State) : Host.Outcome State Fault Refusal :=
  run (logic8 (fun a b => a &&& b) d s) st

/-- OR (R387). -/
def execOr (d s : Op8) (st : State) : Host.Outcome State Fault Refusal :=
  run (logic8 (fun a b => a ||| b) d s) st

/-- XOR (R388). -/
def execXor (d s : Op8) (st : State) : Host.Outcome State Fault Refusal :=
  run (logic8 (fun a b => a ^^^ b) d s) st

end Sys2Proof.Machine
end

