-- ==== Sys2Proof/Machine/ArithWide.lean ====
section
/-! DEFINITION. ADDW, SUBW, CMPW, ADDG, SUBG (44_alu16_24). -/

namespace Sys2Proof.Machine

/-- `OPW dst, src` (R430). -/
def arith16 (f : Word → Word → Arith 16) (store : Bool) (d s : Op16) : Act Unit := do
  let x ← both16 d s
  let r := f x.a x.b
  setWide r
  if store then write16 x.ld r.res

/-- `OPG dst, src` (R440). -/
def arith24 (f : Long → Long → Arith 24) (d s : Op24) : Act Unit := do
  let x ← both24 d s
  let r := f x.a x.b
  setWide r
  write24 x.ld r.res

/-- ADDW (R431). -/
def execAddw (d s : Op16) (st : State) : Host.Outcome State Fault Refusal :=
  run (arith16 (fun a b => addN a b false) true d s) st

/-- SUBW (R432). -/
def execSubw (d s : Op16) (st : State) : Host.Outcome State Fault Refusal :=
  run (arith16 (fun a b => subN a b false) true d s) st

/-- CMPW (R433). -/
def execCmpw (d s : Op16) (st : State) : Host.Outcome State Fault Refusal :=
  run (arith16 (fun a b => subN a b false) false d s) st

/-- ADDG (R441). -/
def execAddg (d s : Op24) (st : State) : Host.Outcome State Fault Refusal :=
  run (arith24 (fun a b => addN a b false) d s) st

/-- SUBG (R442). -/
def execSubg (d s : Op24) (st : State) : Host.Outcome State Fault Refusal :=
  run (arith24 (fun a b => subN a b false) d s) st

end Sys2Proof.Machine
end

