-- ==== Sys2Proof/Machine/Bit.lean ====
section
/-! DEFINITION. MOV1, AND1, OR1, XOR1, NOT1, SET1, CLR1 (48_bit). -/

namespace Sys2Proof.Machine

/-- CY becomes a function of CY and a bit. -/
def bitToCy (f : Bool → Bool → Bool) (x : BitLoc) (b : Fin 8) : Act Unit := do
  let v ← readBit x b
  modify fun s => s.setCy (f s.psw.cy v)

/-- CY or one bit becomes a function of its old value. -/
def changeDst (f : Bool → Bool) (t : BitDst) : Act Unit :=
  match t with
  | .cy => modify fun s => s.setCy (f s.psw.cy)
  | .bit x b => changeBit x b f

/-- MOV1 CY,x.bit (R562). -/
def execMov1Cy (x : BitLoc) (b : Fin 8) (st : State) : Host.Outcome State Fault Refusal :=
  run (bitToCy (fun _ v => v) x b) st

/-- MOV1 x.bit,CY (R562). -/
def execMov1To (x : BitLoc) (b : Fin 8) (st : State) : Host.Outcome State Fault Refusal :=
  run (do
    let cy := (← get).psw.cy
    changeBit x b (fun _ => cy)) st

/-- AND1 CY,x.bit and, with `neg`, AND1 CY,/x.bit (R563). -/
def execAnd1 (neg : Bool) (x : BitLoc) (b : Fin 8) (st : State) : Host.Outcome State Fault Refusal :=
  run (bitToCy (fun cy v => cy && (v != neg)) x b) st

/-- OR1 CY,x.bit and OR1 CY,/x.bit (R564). -/
def execOr1 (neg : Bool) (x : BitLoc) (b : Fin 8) (st : State) : Host.Outcome State Fault Refusal :=
  run (bitToCy (fun cy v => cy || (v != neg)) x b) st

/-- XOR1 CY,x.bit (R565). -/
def execXor1 (x : BitLoc) (b : Fin 8) (st : State) : Host.Outcome State Fault Refusal :=
  run (bitToCy (fun cy v => cy != v) x b) st

/-- NOT1 (R566). -/
def execNot1 (t : BitDst) (st : State) : Host.Outcome State Fault Refusal :=
  run (changeDst (fun v => !v) t) st

/-- SET1 (R567). -/
def execSet1 (t : BitDst) (st : State) : Host.Outcome State Fault Refusal :=
  run (changeDst (fun _ => true) t) st

/-- CLR1 (R568). -/
def execClr1 (t : BitDst) (st : State) : Host.Outcome State Fault Refusal :=
  run (changeDst (fun _ => false) t) st

end Sys2Proof.Machine
end

