-- ==== Sys2Proof/Machine/Call.lean ====
section
/-! DEFINITION. CALL, CALLF, CALLT, BRK, BRKCS, RET, RETI, RETB, RETCS, RETCSB (50_call_return) and the
branch targets CALL shares with BR. `pc` is the address of the next instruction. -/

namespace Sys2Proof.Machine

/-- Where CALL and BR go (R641 to R647, 51_branch R691 to R698). -/
def targetOf (t : Target) : Act PAddr := do
  let s ← get
  match t with
  | .abs16 w => return w.setWidth 20
  | .abs20 p => return p
  | .rp n => return (s.rp n).setWidth 20
  | .rg g => return (s.rg g).setWidth 20
  | .indRp n => return (← readMem16 ((s.rp n).setWidth 24)).setWidth 20
  | .indRg g => return (← readMem24 (s.rg g)).setWidth 20
  | .rel8 d => return s.pc + d.signExtend 20
  | .rel16 d => return s.pc + d.signExtend 20

/-- Save the return address and go. -/
def callTo (t : PAddr) : Act Unit := do
  let s ← get
  pushRet s.pc
  jump t

/-- CALL (R641 to R647). -/
def execCall (t : Target) (st : State) : Host.Outcome State Fault Refusal :=
  run (do
    let p ← targetOf t
    callTo p) st

/-- CALLF !addr11 (R648): 00800H | addr. -/
def execCallf (a : BitVec 11) (st : State) : Host.Outcome State Fault Refusal :=
  run (callTo ((1#1 ++ a).setWidth 20)) st

/-- CALLT [addr5] (R649): the word at 00040H + 2t. -/
def execCallt (t : Fin 32) (st : State) : Host.Outcome State Fault Refusal :=
  run (do
    let w ← readMem16 (BitVec.ofNat 24 (0x40 + 2 * t.val))
    callTo (w.setWidth 20)) st

/-- BRK (R650). -/
def execBrk (st : State) : Host.Outcome State Fault Refusal :=
  run (do
    let s ← get
    acknowledge vecBrk s.pc) st

/-- BRKCS RBn (R651). -/
def execBrkcs (n : Fin 8) (st : State) : Host.Outcome State Fault Refusal :=
  run (modify fun s => s.contextSwitch (BitVec.ofNat 3 n.val) s.pc) st

/-- RET (R652). -/
def execRet (st : State) : Host.Outcome State Fault Refusal :=
  run (do
    let p ← popRet
    jump p) st

/-- RETI (R653): clears the highest level in service. -/
def execReti (st : State) : Host.Outcome State Fault Refusal :=
  run (do
    returnFromStack
    modify fun s => { s with ispr := s.ispr.clearHighest }) st

/-- RETB (R654). -/
def execRetb (st : State) : Host.Outcome State Fault Refusal := run returnFromStack st

/-- RETCS !addr16 (R655): clears the highest level in service. -/
def execRetcs (w : Word) (st : State) : Host.Outcome State Fault Refusal :=
  run (modify fun s =>
    let t := s.contextReturn w
    { t with ispr := t.ispr.clearHighest }) st

/-- RETCSB !addr16 (R656). -/
def execRetcsb (w : Word) (st : State) : Host.Outcome State Fault Refusal :=
  run (modify (·.contextReturn w)) st

end Sys2Proof.Machine
end

