-- ==== Sys2Proof/Machine/Branch.lean ====
section
/-! DEFINITION. BR, the conditional branches, BF, BT, BTCLR, BFSET, DBNZ (51_branch). -/

namespace Sys2Proof.Machine

/-- BR (R691 to R698). -/
def execBr (t : Target) (st : State) : Host.Outcome State Fault Refusal :=
  run (do
    let p ← targetOf t
    jump p) st

/-- `$addr20`: from the next instruction (R690). -/
def State.branch (s : State) (d : Byte) : State := { s with pc := s.pc + d.signExtend 20 }

/-- Branch when the flags say so. -/
def branchIf (cond : Psw → Bool) (d : Byte) : Act Unit :=
  modify fun s => if cond s.psw then s.branch d else s

/-- BNZ (R700). -/
def execBnz (d : Byte) (st : State) : Host.Outcome State Fault Refusal := run (branchIf (fun p => !p.z) d) st
/-- BNE, the same instruction as BNZ (R700). -/
def execBne (d : Byte) (st : State) : Host.Outcome State Fault Refusal := run (branchIf (fun p => !p.z) d) st
/-- BZ (R701). -/
def execBz (d : Byte) (st : State) : Host.Outcome State Fault Refusal := run (branchIf (fun p => p.z) d) st
/-- BE, the same instruction as BZ (R701). -/
def execBe (d : Byte) (st : State) : Host.Outcome State Fault Refusal := run (branchIf (fun p => p.z) d) st
/-- BNC (R702). -/
def execBnc (d : Byte) (st : State) : Host.Outcome State Fault Refusal := run (branchIf (fun p => !p.cy) d) st
/-- BNL, the same instruction as BNC (R702). -/
def execBnl (d : Byte) (st : State) : Host.Outcome State Fault Refusal := run (branchIf (fun p => !p.cy) d) st
/-- BC (R703). -/
def execBc (d : Byte) (st : State) : Host.Outcome State Fault Refusal := run (branchIf (fun p => p.cy) d) st
/-- BL, the same instruction as BC (R703). -/
def execBl (d : Byte) (st : State) : Host.Outcome State Fault Refusal := run (branchIf (fun p => p.cy) d) st
/-- BNV (R704). -/
def execBnv (d : Byte) (st : State) : Host.Outcome State Fault Refusal := run (branchIf (fun p => !p.pv) d) st
/-- BPO, the same instruction as BNV (R704). -/
def execBpo (d : Byte) (st : State) : Host.Outcome State Fault Refusal := run (branchIf (fun p => !p.pv) d) st
/-- BV (R705). -/
def execBv (d : Byte) (st : State) : Host.Outcome State Fault Refusal := run (branchIf (fun p => p.pv) d) st
/-- BPE, the same instruction as BV (R705). -/
def execBpe (d : Byte) (st : State) : Host.Outcome State Fault Refusal := run (branchIf (fun p => p.pv) d) st
/-- BP (R706). -/
def execBp (d : Byte) (st : State) : Host.Outcome State Fault Refusal := run (branchIf (fun p => !p.s) d) st
/-- BN (R707). -/
def execBn (d : Byte) (st : State) : Host.Outcome State Fault Refusal := run (branchIf (fun p => p.s) d) st
/-- BLT (R710). -/
def execBlt (d : Byte) (st : State) : Host.Outcome State Fault Refusal :=
  run (branchIf (fun p => p.pv != p.s) d) st
/-- BGE (R711). -/
def execBge (d : Byte) (st : State) : Host.Outcome State Fault Refusal :=
  run (branchIf (fun p => p.pv == p.s) d) st
/-- BLE (R712). -/
def execBle (d : Byte) (st : State) : Host.Outcome State Fault Refusal :=
  run (branchIf (fun p => (p.pv != p.s) || p.z) d) st
/-- BGT (R713). -/
def execBgt (d : Byte) (st : State) : Host.Outcome State Fault Refusal :=
  run (branchIf (fun p => !((p.pv != p.s) || p.z)) d) st
/-- BNH (R714). -/
def execBnh (d : Byte) (st : State) : Host.Outcome State Fault Refusal :=
  run (branchIf (fun p => p.z || p.cy) d) st
/-- BH (R715). -/
def execBh (d : Byte) (st : State) : Host.Outcome State Fault Refusal :=
  run (branchIf (fun p => !(p.z || p.cy)) d) st

/-- Branch when the bit equals `want`; nothing is written (R720, R721). -/
def branchBit (want : Bool) (x : BitLoc) (b : Fin 8) (d : Byte) : Act Unit := do
  let v ← readBit x b
  if v = want then modify (·.branch d)

/-- Branch when the bit equals `want`, and invert it then; else nothing is written (R722, R723). -/
def branchFlip (want : Bool) (x : BitLoc) (b : Fin 8) (d : Byte) : Act Unit := do
  let s ← get
  let v ← readBit x b
  if v = want then
    guardedSet (s.locateBit x).writable
      ((s.locateBit x).storeBit ((s.locateBit x).lookBit b s).1 b (!want))
    modify (·.branch d)

/-- BF (R720). -/
def execBf (x : BitLoc) (b : Fin 8) (d : Byte) (st : State) : Host.Outcome State Fault Refusal :=
  run (branchBit false x b d) st

/-- BT (R721). -/
def execBt (x : BitLoc) (b : Fin 8) (d : Byte) (st : State) : Host.Outcome State Fault Refusal :=
  run (branchBit true x b d) st

/-- BTCLR (R722). -/
def execBtclr (x : BitLoc) (b : Fin 8) (d : Byte) (st : State) : Host.Outcome State Fault Refusal :=
  run (branchFlip true x b d) st

/-- BFSET (R723). -/
def execBfset (x : BitLoc) (b : Fin 8) (d : Byte) (st : State) : Host.Outcome State Fault Refusal :=
  run (branchFlip false x b d) st

/-- The counter of DBNZ; B and C follow RSS. -/
def State.locateLoop (s : State) (t : LoopReg) : Loc8 :=
  match t with
  | .b => .ram (regKey s.psw.rbs s.regB)
  | .c => .ram (regKey s.psw.rbs s.regC)
  | .saddr x => .mem (s.eaSaddr x)

/-- DBNZ (R740). -/
def execDbnz (t : LoopReg) (d : Byte) (st : State) : Host.Outcome State Fault Refusal :=
  run (do
    let l := (← get).locateLoop t
    let v ← read8 l
    write8 l (v - 1)
    if v - 1 ≠ 0x00#8 then modify (·.branch d)) st

end Sys2Proof.Machine
end

