-- ==== Sys2Proof/Machine/Control.lean ====
section
/-! DEFINITION. MOV STBC, MOV WDM, LOCATION, SEL, SWRS, NOP, EI, DI (52_cpu_control). -/

namespace Sys2Proof.Machine

/-- B3 and B4 are complements (60_exceptions R833). -/
def complements (b3 b4 : Byte) : Bool := b3 ^^^ b4 == 0xFF#8

/-- HOLD: no acknowledgment at the next boundary (R846). -/
def State.held (s : State) : State := { s with hold := true }

/-- The byte goes to STBC and to the host, which may stop the CPU; 2 sets the STOP mode (R750, R922). -/
def State.writeStbc (s : State) (b : Byte) : State :=
  { s.tell (.stbcWrite b) with
      stbc := b, stopped := s.stopped || b == 0x02#8 || Config.stbcStops s.io b }

/-- MOV STBC,#byte (R750). -/
def execMovStbc (nb b : Byte) (st : State) : Host.Outcome State Fault Refusal :=
  run (if complements nb b then modify (·.writeStbc b) else operandError) st

/-- MOV WDM,#byte (R751); refused on a product without a watchdog timer (U19). -/
def execMovWdm (nb b : Byte) (st : State) : Host.Outcome State Fault Refusal :=
  run (do
    let s ← get
    if s.cfg.hasWdt then
      if complements nb b then set { s.tell (.wdmWrite b) with wdm := b } else operandError
    else refuse .noWatchdog) st

/-- What a complementary operand of LOCATION does (R752): once after reset 0H (FEH, 01H) or 0FH (FFH, 00H) places
the internal data area; any other and any later one is ignored (D21). -/
def State.relocate (s : State) (lo : Byte) : State :=
  if s.locDone then s
  else if lo = 0xFE#8 then { s with loc0f := false, locDone := true }
  else if lo = 0xFF#8 then { s with loc0f := !s.cfg.locationFixed0, locDone := true }
  else s

/-- LOCATION locaddr (R752). HOLD follows in every case, an ignored operand and the operand error among them, as
the line after R752's if-chain has it (log 16). -/
def execLocation (lo hi : Byte) (st : State) : Host.Outcome State Fault Refusal :=
  run (do
    if complements lo hi then modify (·.relocate lo) else operandError
    modify (·.held)) st

/-- SEL RBn (R753). -/
def execSel (n : Fin 8) (st : State) : Host.Outcome State Fault Refusal :=
  run (modify fun s => { s with psw := { s.psw with rss := false, rbs := BitVec.ofNat 3 n.val } }) st

/-- SEL RBn,ALT (R754). -/
def execSelAlt (n : Fin 8) (st : State) : Host.Outcome State Fault Refusal :=
  run (modify fun s => { s with psw := { s.psw with rss := true, rbs := BitVec.ofNat 3 n.val } }) st

/-- SWRS (R755). -/
def execSwrs (st : State) : Host.Outcome State Fault Refusal :=
  run (modify fun s => { s with psw := { s.psw with rss := !s.psw.rss } }) st

/-- NOP (R756). -/
def execNop (st : State) : Host.Outcome State Fault Refusal := run (return ()) st

/-- EI (R757). -/
def execEi (st : State) : Host.Outcome State Fault Refusal :=
  run (modify fun s => { s.held with psw := { s.psw with ie := true } }) st

/-- DI (R758). -/
def execDi (st : State) : Host.Outcome State Fault Refusal :=
  run (modify fun s => { s.held with psw := { s.psw with ie := false } }) st

end Sys2Proof.Machine
end

