-- ==== Sys2Proof/Machine/IncDec.lean ====
section
/-! DEFINITION. INC, DEC, INCW, DECW, INCG, DECG, ADJBA, ADJBS, CVTBW (46_incdec_adjust). -/

namespace Sys2Proof.Machine

/-- Read, change, write an 8-bit operand, with the flags of R500. -/
def incDec8 (f : Byte → Arith 8) (o : Op8) : Act Unit := do
  let l ← loc8 o
  let v ← read8 l
  setIncDec (f v)
  write8 l (f v).res

def change16 (f : Word → Word) (o : Op16) : Act Unit := do
  let l ← loc16 o
  let v ← read16 l
  write16 l (f v)

def change24 (f : Long → Long) (o : Op24) : Act Unit := do
  let l ← loc24 o
  let v ← read24 l
  write24 l (f v)

/-- INC (R500). -/
def execInc (o : Op8) (st : State) : Host.Outcome State Fault Refusal :=
  run (incDec8 (fun v => addN v 0x01#8 false) o) st

/-- DEC (R501). -/
def execDec (o : Op8) (st : State) : Host.Outcome State Fault Refusal :=
  run (incDec8 (fun v => subN v 0x01#8 false) o) st

/-- INCW (R502); no flag changes. -/
def execIncw (o : Op16) (st : State) : Host.Outcome State Fault Refusal :=
  run (change16 (fun v => v + 1) o) st

/-- DECW (R503). -/
def execDecw (o : Op16) (st : State) : Host.Outcome State Fault Refusal :=
  run (change16 (fun v => v - 1) o) st

/-- INCG rg (R504), INCG SP (49_stack R625). -/
def execIncg (o : Op24) (st : State) : Host.Outcome State Fault Refusal :=
  run (change24 (fun v => v + 1) o) st

/-- DECG rg (R505), DECG SP (49_stack R626). -/
def execDecg (o : Op24) (st : State) : Host.Outcome State Fault Refusal :=
  run (change24 (fun v => v - 1) o) st

/-- A, CY, AC after a decimal adjustment, and S, Z, P/V of the new A. -/
def State.setAdjusted (s : State) (v : Byte) (cy ac : Bool) : State :=
  let t := s.setA v
  { t with psw := { (t.psw.withLogic v) with cy := cy, ac := ac } }

/-- The correction of ADJBA and the new CY and AC (R510). -/
def adjustAdd (a : Byte) (cy ac : Bool) : Byte × Bool × Bool :=
  let lo := a.toNat % 16
  let hi := a.toNat / 16
  if ac then
    if hi ≤ 9 ∧ cy = false then (a + 0x06#8, false, true) else (a + 0x66#8, true, true)
  else if lo ≤ 9 then
    if hi ≤ 9 ∧ cy = false then (a, false, false) else (a + 0x60#8, true, false)
  else
    if hi < 9 ∧ cy = false then (a + 0x06#8, false, true) else (a + 0x66#8, true, true)

/-- ADJBA (R510). -/
def execAdjba (st : State) : Host.Outcome State Fault Refusal :=
  run (modify fun s =>
    let r := adjustAdd s.a s.psw.cy s.psw.ac
    s.setAdjusted r.1 r.2.1 r.2.2) st

/-- ADJBS (R511): CY and AC keep their values. -/
def execAdjbs (st : State) : Host.Outcome State Fault Refusal :=
  run (modify fun s =>
    let d : Byte := (if s.psw.cy then 0x60#8 else 0x00#8) + (if s.psw.ac then 0x06#8 else 0x00#8)
    s.setAdjusted (s.a - d) s.psw.cy s.psw.ac) st

/-- CVTBW (R512). -/
def execCvtbw (st : State) : Host.Outcome State Fault Refusal :=
  run (modify fun s => s.setAx (s.a.signExtend 16)) st

end Sys2Proof.Machine
end

