-- ==== Sys2Proof/Machine/MulDiv.lean ====
section
/-! DEFINITION. MULU, MULUW, MULW, DIVUW, DIVUX, MACW, MACSW, SACW (45_muldiv_mac). -/

namespace Sys2Proof.Machine

/-- MULU r (R470). -/
def execMulu (n : R8) (st : State) : Host.Outcome State Fault Refusal :=
  run (modify fun s => s.setAx (BitVec.ofNat 16 (s.a.toNat * (s.r8 n).toNat))) st

/-- The 32-bit product goes to RP(n) (low half), then AX (high half) (R471, R472). -/
def State.setProduct (s : State) (n : RP) (p : BitVec 32) : State :=
  (s.setRp n (p.extractLsb' 0 16)).setAx (p.extractLsb' 16 16)

/-- MULUW rp (R471). -/
def execMuluw (n : RP) (st : State) : Host.Outcome State Fault Refusal :=
  run (modify fun s => s.setProduct n (BitVec.ofNat 32 (s.ax.toNat * (s.rp n).toNat))) st

/-- MULW rp (R472): signed. -/
def execMulw (n : RP) (st : State) : Host.Outcome State Fault Refusal :=
  run (modify fun s => s.setProduct n (BitVec.ofInt 32 (s.ax.toInt * (s.rp n).toInt))) st

/-- Unsigned quotient and remainder; a zero divisor gives all ones and the low part of the dividend
(R473, R474). -/
def divide (n d ones low : Nat) : Nat × Nat := if d = 0 then (ones, low) else (n / d, n % d)

/-- DIVUW r (R473): the quotient to AX, then the remainder to R(n). -/
def execDivuw (n : R8) (st : State) : Host.Outcome State Fault Refusal :=
  run (modify fun s =>
    let q := divide s.ax.toNat (s.r8 n).toNat 0xFFFF (s.r8 s.regX).toNat
    (s.setAx (BitVec.ofNat 16 q.1)).setR8 n (BitVec.ofNat 8 q.2)) st

/-- DIVUX rp (R474): the quotient to AXDE, then the remainder to RP(n). -/
def execDivux (n : RP) (st : State) : Host.Outcome State Fault Refusal :=
  run (modify fun s =>
    let q := divide s.axde.toNat (s.rp n).toNat 0xFFFFFFFF (s.rp .rp6).toNat
    (s.setAxde (BitVec.ofNat 32 q.1)).setRp n (BitVec.ofNat 16 q.2)) st

/-- A repeat count of 0 means 256 (D10). -/
def passes (c : Byte) : Nat := if c = 0x00#8 then 256 else c.toNat

/-- The sum of products of R480 and R481, `n` passes; true when the accumulation overflowed. On overflow
AXDE is undefined for MACW (U17) and the limit for MACSW. -/
def macLoop (saturate : Bool) (n : Nat) : Act Bool :=
  match n with
  | 0 => return false
  | n + 1 => do
    let s ← get
    let pb := s.r8 s.regB
    let pc := s.r8 s.regC
    if pb = 0xFF#8 ∨ pc = 0xFF#8 then refuse .macStraddle
    else
      let m1 ← readMem16 (BitVec.ofNat 24 (s.locBase + 0xFE00 + pb.toNat))
      let m2 ← readMem16 (BitVec.ofNat 24 (s.locBase + 0xFE00 + pc.toNat))
      let sum : Int := s.axde.toInt + m1.toInt * m2.toInt
      if 0x7FFFFFFF < sum ∨ sum < -0x80000000 then
        if saturate then
          modify (·.setAxde (if 0 < sum then 0x7FFFFFFF#32 else 0x80000000#32))
        else
          let v ← draw
          modify (·.setAxde v)
        return true
      else
        modify (·.setAxde (BitVec.ofInt 32 sum))
        modify fun t => t.setR8 t.regB (t.r8 t.regB + 2)
        modify fun t => t.setR8 t.regC (t.r8 t.regC + 2)
        macLoop saturate n

/-- P/V tells the overflow; S, Z, AC, CY are undefined (R480, U6): bits 0 to 3 of a draw. -/
def mac (saturate : Bool) (c : Byte) : Act Unit := do
  let overflowed ← macLoop saturate (passes c)
  let v ← draw
  modify fun s =>
    { s with psw := { s.psw with s := v.getLsbD 0, z := v.getLsbD 1, ac := v.getLsbD 2,
                                 pv := overflowed, cy := v.getLsbD 3 } }

/-- MACW byte (R480); one step, no acknowledgment inside (60_exceptions R847). -/
def execMacw (c : Byte) (st : State) : Host.Outcome State Fault Refusal := run (mac false c) st

/-- MACSW byte (R481). -/
def execMacsw (c : Byte) (st : State) : Host.Outcome State Fault Refusal := run (mac true c) st

/-- The pc returns to the instruction's first byte: another pass follows the next boundary (R848, D25). -/
def State.again (s : State) (length : PAddr) : State := { s with pc := s.pc - length }

/-- SACW [TDE+],[WHL+] (R482), one pass. CY is the carry; S, Z, AC, P/V are undefined (U6). -/
def execSacw (st : State) : Host.Outcome State Fault Refusal :=
  run (do
    let s ← get
    let a ← readMem16 (s.rg .tde)
    let b ← readMem16 (s.rg .whl)
    let dist := if a.toNat < b.toNat then b.toNat - a.toNat else a.toNat - b.toNat
    let sum := s.ax.toNat + dist
    let cy := decide (0x10000 ≤ sum)
    modify (·.setAx (BitVec.ofNat 16 sum))
    let v ← draw
    modify fun t =>
      { t with psw := { t.psw with s := v.getLsbD 0, z := v.getLsbD 1, ac := v.getLsbD 2,
                                   pv := v.getLsbD 3, cy := cy } }
    modify fun t => t.setRg .tde (t.rg .tde + 2)
    modify fun t => t.setRg .whl (t.rg .whl + 2)
    if cy then return ()
    else
      modify fun t => t.setR8 t.regC (t.r8 t.regC - 1)
      let t ← get
      if t.r8 t.regC = 0x00#8 then return () else modify (·.again 4)) st

end Sys2Proof.Machine
end

