-- ==== Sys2Proof/Machine/Shift.lean ====
section
/-! DEFINITION. ROR, ROL, RORC, ROLC, SHR, SHL, SHRW, SHLW, ROR4, ROL4 (47_shift_rotate). -/

namespace Sys2Proof.Machine

/-- One place of a rotate or shift: the new value and CY from the old ones. -/
abbrev Place1 (w : Nat) := BitVec w → Bool → BitVec w × Bool

/-- `n` places. -/
def placesOf {w : Nat} (f : Place1 w) (n : Nat) (v : BitVec w) (cy : Bool) : BitVec w × Bool :=
  match n with
  | 0 => (v, cy)
  | n + 1 => placesOf f n (f v cy).1 (f v cy).2

/-- ROR by one (R531). -/
def rorOne : Place1 8 := fun v _ => (BitVec.ofBool (v.getLsbD 0) ++ v.extractLsb' 1 7, v.getLsbD 0)
/-- ROL by one (R532). -/
def rolOne : Place1 8 := fun v _ => (v.extractLsb' 0 7 ++ BitVec.ofBool (v.getLsbD 7), v.getLsbD 7)
/-- RORC by one (R533). -/
def rorcOne : Place1 8 := fun v cy => (BitVec.ofBool cy ++ v.extractLsb' 1 7, v.getLsbD 0)
/-- ROLC by one (R534). -/
def rolcOne : Place1 8 := fun v cy => (v.extractLsb' 0 7 ++ BitVec.ofBool cy, v.getLsbD 7)
/-- SHR and SHRW by one (R535, R537). -/
def shrOne {w : Nat} : Place1 w := fun v _ => (v >>> 1, v.getLsbD 0)
/-- SHL and SHLW by one (R536, R538). -/
def shlOne {w : Nat} : Place1 w := fun v _ => (v <<< 1, v.msb)

/-- A rotate of R(n) by `c` places: P/V and CY change, and nothing when c = 0 (R530). -/
def State.rotate (s : State) (f : Place1 8) (n : R8) (c : Fin 8) : State :=
  if c = 0 then s
  else
    let r := placesOf f c.val (s.r8 n) s.psw.cy
    let t := s.setR8 n r.1
    { t with psw := { t.psw with pv := par8 r.1, cy := r.2 } }

/-- A shift of R(n): AC is cleared, the other flags follow the result. -/
def State.shift8 (s : State) (f : Place1 8) (n : R8) (c : Fin 8) : State :=
  if c = 0 then s
  else
    let r := placesOf f c.val (s.r8 n) s.psw.cy
    let t := s.setR8 n r.1
    { t with psw := { (t.psw.withLogic r.1) with ac := false, cy := r.2 } }

/-- A shift of RP(n): parity of the low byte only. -/
def State.shift16 (s : State) (f : Place1 16) (n : RP) (c : Fin 8) : State :=
  if c = 0 then s
  else
    let r := placesOf f c.val (s.rp n) s.psw.cy
    let t := s.setRp n r.1
    { t with psw := { t.psw with s := r.1.msb, z := r.1 == 0#16, ac := false,
                                 pv := par8 (r.1.extractLsb' 0 8), cy := r.2 } }

/-- ROR r,n (R531). -/
def execRor (n : R8) (c : Fin 8) (st : State) : Host.Outcome State Fault Refusal :=
  run (modify (·.rotate rorOne n c)) st

/-- ROL r,n (R532). -/
def execRol (n : R8) (c : Fin 8) (st : State) : Host.Outcome State Fault Refusal :=
  run (modify (·.rotate rolOne n c)) st

/-- RORC r,n (R533). -/
def execRorc (n : R8) (c : Fin 8) (st : State) : Host.Outcome State Fault Refusal :=
  run (modify (·.rotate rorcOne n c)) st

/-- ROLC r,n (R534). -/
def execRolc (n : R8) (c : Fin 8) (st : State) : Host.Outcome State Fault Refusal :=
  run (modify (·.rotate rolcOne n c)) st

/-- SHR r,n (R535). -/
def execShr (n : R8) (c : Fin 8) (st : State) : Host.Outcome State Fault Refusal :=
  run (modify (·.shift8 shrOne n c)) st

/-- SHL r,n (R536). -/
def execShl (n : R8) (c : Fin 8) (st : State) : Host.Outcome State Fault Refusal :=
  run (modify (·.shift8 shlOne n c)) st

/-- SHRW rp,n (R537). -/
def execShrw (n : RP) (c : Fin 8) (st : State) : Host.Outcome State Fault Refusal :=
  run (modify (·.shift16 shrOne n c)) st

/-- SHLW rp,n (R538). -/
def execShlw (n : RP) (c : Fin 8) (st : State) : Host.Outcome State Fault Refusal :=
  run (modify (·.shift16 shlOne n c)) st

/-- ROR4 mem3 (R539): A3-0 <- m3-0; m <- A3-0 : m7-4. -/
def execRor4 (m : Mem3) (st : State) : Host.Outcome State Fault Refusal :=
  run (do
    let s ← get
    let ea := s.eaMem3 m
    let v ← readByte ea
    modify (·.setA (s.a.extractLsb' 4 4 ++ v.extractLsb' 0 4))
    writeByte ea (s.a.extractLsb' 0 4 ++ v.extractLsb' 4 4)) st

/-- ROL4 mem3 (R540): A3-0 <- m7-4; m <- m3-0 : A3-0. -/
def execRol4 (m : Mem3) (st : State) : Host.Outcome State Fault Refusal :=
  run (do
    let s ← get
    let ea := s.eaMem3 m
    let v ← readByte ea
    modify (·.setA (s.a.extractLsb' 4 4 ++ v.extractLsb' 4 4))
    writeByte ea (v.extractLsb' 0 4 ++ s.a.extractLsb' 0 4)) st

end Sys2Proof.Machine
end

