-- ==== Sys2Proof/Machine/Stack.lean ====
section
/-! DEFINITION. PUSH, PUSHU, POP, POPU, ADDWG, SUBWG (49_stack). -/

namespace Sys2Proof.Machine

/-- The pairs of a post byte, bit 7 first: the order of a save (R601). -/
def savePairs : List (Nat × RP) :=
  [(7, .rp7), (6, .rp6), (5, .rp5), (4, .rp4), (3, .rp3), (2, .rp2), (1, .rp1), (0, .rp0)]

/-- Bit 0 first: the order of a restoration. -/
def restorePairs : List (Nat × RP) :=
  [(0, .rp0), (1, .rp1), (2, .rp2), (3, .rp3), (4, .rp4), (5, .rp5), (6, .rp6), (7, .rp7)]

/-- PUSH post (R605): bit 5 is UP. -/
def pushPairs (ps : List (Nat × RP)) (post : Byte) : Act Unit :=
  match ps with
  | [] => return ()
  | p :: ps => do
    if post.getLsbD p.1 then
      let s ← get
      push16 (s.rp p.2)
    pushPairs ps post

/-- POP post (R611). -/
def popPairs (ps : List (Nat × RP)) (post : Byte) : Act Unit :=
  match ps with
  | [] => return ()
  | p :: ps => do
    if post.getLsbD p.1 then
      let w ← pop16
      modify (·.setRp p.2 w)
    popPairs ps post

/-- The word PSW as an instruction pushes it: the bits without storage are undefined (R602, U2). -/
def State.lookPsw (s : State) : Word × State :=
  let h := s.lookPswh
  (h.1 ++ s.psw.low, h.2)

/-- What a bit of a PUSHU post byte saves: bit 5 is PSW (R601). -/
def State.pushuItem (s : State) (p : Nat × RP) : Word × State :=
  if p.1 = 5 then s.lookPsw else (s.rp p.2, s)

/-- PUSHU post (R607). -/
def pushuPairs (ps : List (Nat × RP)) (post : Byte) : Act Unit :=
  match ps with
  | [] => return ()
  | p :: ps => do
    if post.getLsbD p.1 then
      let s ← get
      set (s.pushuItem p).2
      writeMem16 (s.rg .uup - 2) (s.pushuItem p).1
      modify fun t => t.setRg .uup (t.rg .uup - 2)
    pushuPairs ps post

/-- POPU post (R613). The PSW popped is written after the last register, so that those after it are still
registers of the bank the instruction started in (D26; log 33). -/
def popuPairs (ps : List (Nat × RP)) (post : Byte) (psw : Option Word) : Act (Option Word) :=
  match ps with
  | [] => return psw
  | p :: ps => do
    if post.getLsbD p.1 then
      let s ← get
      let w ← readMem16 (s.rg .uup)
      modify fun t => t.setRg .uup (t.rg .uup + 2)
      if p.1 = 5 then popuPairs ps post (some w)
      else
        modify (·.setRp p.2 w)
        popuPairs ps post psw
    else popuPairs ps post psw

/-- PUSH (R602 to R606). -/
def execPush (o : StackOp) (st : State) : Host.Outcome State Fault Refusal :=
  run (match o with
    | .psw => guardedSet (fun s => s.writableN (s.sp - 2) 2) fun s =>
        let w := s.lookPsw
        ((w.2.store (s.sp - 2) (w.1.extractLsb' 0 8)).store (s.sp - 1) (w.1.extractLsb' 8 8)).setSp (s.sp - 2)
    | .sfrp o => do
      let l ← loc16 (.sfr o)
      let w ← read16 l
      push16 w
    | .sfr o => do
      let l ← loc8 (.sfr o)
      let v ← read8 l
      let s ← get
      writeByte (s.sp - 1) v
      modify (·.setSp (s.sp - 1))
    | .post p => pushPairs savePairs p
    | .rg g => do
      let s ← get
      push24 (s.rg g)) st

/-- PUSHU post (R607). -/
def execPushu (p : Byte) (st : State) : Host.Outcome State Fault Refusal :=
  run (pushuPairs savePairs p) st

/-- POP (R608 to R612). -/
def execPop (o : StackOp) (st : State) : Host.Outcome State Fault Refusal :=
  run (match o with
    | .psw => do
      let s ← get
      let l ← readByte s.sp
      let h ← readByte (s.sp + 1)
      modify fun t => { t.setSp (s.sp + 2) with psw := t.psw.ofWord (h ++ l) }
    | .sfrp o => do
      let w ← pop16
      let l ← loc16 (.sfr o)
      write16 l w
    | .sfr o => do
      let s ← get
      let v ← readByte s.sp
      modify (·.setSp (s.sp + 1))
      let l ← loc8 (.sfr o)
      write8 l v
    | .post p => popPairs restorePairs p
    | .rg g => do
      let v ← pop24
      modify (·.setRg g v)) st

/-- POPU post (R613). -/
def execPopu (p : Byte) (st : State) : Host.Outcome State Fault Refusal :=
  run (do
    let psw ← popuPairs restorePairs p none
    match psw with
    | some w => modify fun s => { s with psw := s.psw.ofWord w }
    | none => return ()) st

/-- ADDWG SP,#word (R623). -/
def execAddwg (w : Word) (st : State) : Host.Outcome State Fault Refusal :=
  run (modify fun s => s.setSp (s.sp + w.setWidth 24)) st

/-- SUBWG SP,#word (R624). -/
def execSubwg (w : Word) (st : State) : Host.Outcome State Fault Refusal :=
  run (modify fun s => s.setSp (s.sp - w.setWidth 24)) st

end Sys2Proof.Machine
end

