-- ==== Sys2Proof/Machine/StringOps.lean ====
section
/-! DEFINITION. CHKL, CHKLA, MOVTBLW and the twelve string instructions (53_chkl_string). -/

namespace Sys2Proof.Machine

/-- Pin level XOR output latch (R780, U13): only pins in output mode can differ; on a product without the
instruction those pins read 0 and the others are the host's. An offset that is no port register, an SFR the
product lacks or FEH and FFH, is asked of the host's port model like any other, without a deadlock and without
the PSW: the model's choice, R780 against R111 and R917 (DESIGN CHOICE, log 53). -/
def pinCheck (o : Byte) : Act Byte := do
  let s ← get
  set (s.tell (.pinCheck o))
  let out := Config.outputPins s.io o
  return Config.pinDiff s.io o &&& (if s.cfg.hasChkl then out else ~~~out)

/-- CHKL sfr (R780). -/
def execChkl (o : Byte) (st : State) : Host.Outcome State Fault Refusal :=
  run (do
    let t ← pinCheck o
    setLogic t) st

/-- CHKLA sfr (R781). -/
def execChkla (o : Byte) (st : State) : Host.Outcome State Fault Refusal :=
  run (do
    let t ← pinCheck o
    modify (·.setA t)
    setLogic t) st

/-- `n` words from `a` downwards, each moved up by two (R782). -/
def tableLoop (n : Nat) (a : Long) : Act Unit :=
  match n with
  | 0 => return ()
  | n + 1 => do
    let w ← readMem16 a
    writeMem16 (a + 2) w
    tableLoop n (a - 2)

/-- MOVTBLW !addr8,byte (R782), one step (D12); refused when the run leaves the page (U20). A count byte of 0 is 256
words (D10), which leave the page from every lo8, so it is always refused: the model's choice, since R782's formula
2 * byte > lo8 + 2 does not say so of byte 0 (DESIGN CHOICE, log 23). -/
def execMovtblw (lo c : Byte) (st : State) : Host.Outcome State Fault Refusal :=
  run (do
    let s ← get
    if 0xFE ≤ lo.toNat ∨ lo.toNat + 2 < 2 * passes c then refuse .tableLeavesPage
    else tableLoop (passes c) (BitVec.ofNat 24 (s.locBase + 0xFE00 + lo.toNat))) st

/-- A pointer one element on (R783). -/
def stepBy (d : Dir) (l : Long) : Long :=
  match d with
  | .inc => l + 1
  | .dec => l - 1

/-- What follows the body in one pass (R783): the pointers move, C counts down, and unless C is 0 or the end
condition holds, the pc returns to the instruction (D25). `block` forms move WHL too. -/
def State.endPass (s : State) (block : Bool) (d : Dir) (stop : Psw → Bool) : State :=
  let t := s.setRg .tde (stepBy d (s.rg .tde))
  let u := if block then t.setRg .whl (stepBy d (t.rg .whl)) else t
  let v := u.setR8 u.regC (u.r8 u.regC - 1)
  if v.r8 v.regC = 0x00#8 ∨ stop v.psw = true then v else v.again 2

def endPass (block : Bool) (d : Dir) (stop : Psw → Bool) : Act Unit := modify (·.endPass block d stop)

/-- No end condition but C = 0. -/
def never : Psw → Bool := fun _ => false

/-- Compare (TDE) with A (R788). -/
def compareA : Act Unit := do
  let s ← get
  let m ← readByte (s.rg .tde)
  let t ← get
  setArith (subN m t.a false)

/-- Compare (TDE) with (WHL) (R792). -/
def compareBlock : Act Unit := do
  let s ← get
  let m ← readByte (s.rg .tde)
  let t ← get
  let u ← readByte (t.rg .whl)
  setArith (subN m u false)

/-- MOVM (R784). -/
def execMovm (d : Dir) (st : State) : Host.Outcome State Fault Refusal :=
  run (do
    let s ← get
    writeByte (s.rg .tde) s.a
    endPass false d never) st

/-- XCHM (R785). -/
def execXchm (d : Dir) (st : State) : Host.Outcome State Fault Refusal :=
  run (do
    let s ← get
    let t ← readByte (s.rg .tde)
    writeByte (s.rg .tde) s.a
    modify (·.setA t)
    endPass false d never) st

/-- MOVBK (R786). -/
def execMovbk (d : Dir) (st : State) : Host.Outcome State Fault Refusal :=
  run (do
    let s ← get
    let v ← readByte (s.rg .whl)
    writeByte (s.rg .tde) v
    endPass true d never) st

/-- XCHBK (R787): the second write uses WHL as it is then. -/
def execXchbk (d : Dir) (st : State) : Host.Outcome State Fault Refusal :=
  run (do
    let s ← get
    let t ← readByte (s.rg .tde)
    let u ← readByte (s.rg .whl)
    writeByte (s.rg .tde) u
    let s' ← get
    writeByte (s'.rg .whl) t
    endPass true d never) st

/-- CMPME (R788): ends on a mismatch. -/
def execCmpme (d : Dir) (st : State) : Host.Outcome State Fault Refusal :=
  run (do
    compareA
    endPass false d (fun p => !p.z)) st

/-- CMPMNE (R789): ends on a match. -/
def execCmpmne (d : Dir) (st : State) : Host.Outcome State Fault Refusal :=
  run (do
    compareA
    endPass false d (fun p => p.z)) st

/-- CMPMC (R790): ends when there is no borrow. -/
def execCmpmc (d : Dir) (st : State) : Host.Outcome State Fault Refusal :=
  run (do
    compareA
    endPass false d (fun p => !p.cy)) st

/-- CMPMNC (R791): ends on a borrow. -/
def execCmpmnc (d : Dir) (st : State) : Host.Outcome State Fault Refusal :=
  run (do
    compareA
    endPass false d (fun p => p.cy)) st

/-- CMPBKE (R792). -/
def execCmpbke (d : Dir) (st : State) : Host.Outcome State Fault Refusal :=
  run (do
    compareBlock
    endPass true d (fun p => !p.z)) st

/-- CMPBKNE (R793). -/
def execCmpbkne (d : Dir) (st : State) : Host.Outcome State Fault Refusal :=
  run (do
    compareBlock
    endPass true d (fun p => p.z)) st

/-- CMPBKC (R794). -/
def execCmpbkc (d : Dir) (st : State) : Host.Outcome State Fault Refusal :=
  run (do
    compareBlock
    endPass true d (fun p => !p.cy)) st

/-- CMPBKNC (R795). -/
def execCmpbknc (d : Dir) (st : State) : Host.Outcome State Fault Refusal :=
  run (do
    compareBlock
    endPass true d (fun p => p.cy)) st

end Sys2Proof.Machine
end

