-- ==== Sys2Proof/Machine/Transfer.lean ====
section
/-! DEFINITION. MOV, MOVW, MOVG (40_mov, 41_movw_movg), XCH, XCHW (42_xch_xchw). -/

namespace Sys2Proof.Machine

/-- `MOV dst, src` (40_mov R250); MOV PSWL holds off acknowledgment for one instruction (R262, R846). -/
def execMov (d s : Op8) (st : State) : Host.Outcome State Fault Refusal :=
  run (do
    let ld ← loc8 d
    let ls ← loc8 s
    let v ← read8 ls
    write8 ld v
    modify fun t => (t.after8 d).after8 s
    if d = .pswl then modify fun t => { t with hold := true }) st

/-- `MOVW dst, src` (41_movw_movg R300). -/
def execMovw (d s : Op16) (st : State) : Host.Outcome State Fault Refusal :=
  run (do
    let ld ← loc16 d
    let ls ← loc16 s
    let v ← read16 ls
    write16 ld v
    modify fun t => (t.after16 d).after16 s) st

/-- `MOVG dst, src` (41_movw_movg R310, 49_stack R620 to R622). -/
def execMovg (d s : Op24) (st : State) : Host.Outcome State Fault Refusal :=
  run (do
    let ld ← loc24 d
    let ls ← loc24 s
    let v ← read24 ls
    write24 ld v
    modify fun t => (t.after24 d).after24 s) st

/-- Is the place a register? -/
def Loc8.isReg : Loc8 → Bool
  | .ram _ => true
  | _ => false

def Loc16.isReg : Loc16 → Bool
  | .ram _ => true
  | _ => false

/-- `XCH dst, src` (42_xch_xchw R350): both read, then both written. A register exchanged with memory is
written last (R353 to R355), else the first operand is written first (R351, R353). `XCH r,sfr` with offset FFH
(PSWH) changes RBS: r is the register of the bank selected before (DESIGN CHOICE, log 55). -/
def execXch (d s : Op8) (st : State) : Host.Outcome State Fault Refusal :=
  run (do
    let x ← both8 d s
    if x.ld.isReg && !x.ls.isReg then
      write8 x.ls x.a
      write8 x.ld x.b
    else
      write8 x.ld x.b
      write8 x.ls x.a
    modify (·.after8 s)) st

/-- `XCHW dst, src` (R360), in the same order (R361 to R364). `XCHW rp,sfrp` whose word covers PSWH (offset FEH or
FFH) changes RBS: rp is the pair of the bank selected before (DESIGN CHOICE, log 55). -/
def execXchw (d s : Op16) (st : State) : Host.Outcome State Fault Refusal :=
  run (do
    let x ← both16 d s
    if x.ld.isReg && !x.ls.isReg then
      write16 x.ls x.a
      write16 x.ld x.b
    else
      write16 x.ld x.b
      write16 x.ls x.a
    modify (·.after16 s)) st

end Sys2Proof.Machine
end

