-- ==== Sys2Proof/Machine/Dispatch.lean ====
section
/-! DEFINITION. One arm per instruction: a call of its meaning. -/

namespace Sys2Proof.Machine

/-- The effect of an instruction. `pc` already holds the address of the next instruction (30_encoding R178). -/
def exec (i : Instr) (s : State) : Host.Outcome State Fault Refusal :=
  match i with
  | .mov dst src => Sys2Proof.Machine.execMov dst src s
  | .movStbc nb b => Sys2Proof.Machine.execMovStbc nb b s
  | .movWdm nb b => Sys2Proof.Machine.execMovWdm nb b s
  | .movw dst src => Sys2Proof.Machine.execMovw dst src s
  | .movg dst src => Sys2Proof.Machine.execMovg dst src s
  | .xch dst src => Sys2Proof.Machine.execXch dst src s
  | .xchw dst src => Sys2Proof.Machine.execXchw dst src s
  | .add dst src => Sys2Proof.Machine.execAdd dst src s
  | .addc dst src => Sys2Proof.Machine.execAddc dst src s
  | .sub dst src => Sys2Proof.Machine.execSub dst src s
  | .subc dst src => Sys2Proof.Machine.execSubc dst src s
  | .cmp dst src => Sys2Proof.Machine.execCmp dst src s
  | .and dst src => Sys2Proof.Machine.execAnd dst src s
  | .or dst src => Sys2Proof.Machine.execOr dst src s
  | .xor dst src => Sys2Proof.Machine.execXor dst src s
  | .addw dst src => Sys2Proof.Machine.execAddw dst src s
  | .subw dst src => Sys2Proof.Machine.execSubw dst src s
  | .cmpw dst src => Sys2Proof.Machine.execCmpw dst src s
  | .addg dst src => Sys2Proof.Machine.execAddg dst src s
  | .subg dst src => Sys2Proof.Machine.execSubg dst src s
  | .mulu n => Sys2Proof.Machine.execMulu n s
  | .muluw n => Sys2Proof.Machine.execMuluw n s
  | .mulw n => Sys2Proof.Machine.execMulw n s
  | .divuw n => Sys2Proof.Machine.execDivuw n s
  | .divux n => Sys2Proof.Machine.execDivux n s
  | .macw c => Sys2Proof.Machine.execMacw c s
  | .macsw c => Sys2Proof.Machine.execMacsw c s
  | .sacw => Sys2Proof.Machine.execSacw s
  | .inc o => Sys2Proof.Machine.execInc o s
  | .dec o => Sys2Proof.Machine.execDec o s
  | .incw o => Sys2Proof.Machine.execIncw o s
  | .decw o => Sys2Proof.Machine.execDecw o s
  | .incg o => Sys2Proof.Machine.execIncg o s
  | .decg o => Sys2Proof.Machine.execDecg o s
  | .adjba => Sys2Proof.Machine.execAdjba s
  | .adjbs => Sys2Proof.Machine.execAdjbs s
  | .cvtbw => Sys2Proof.Machine.execCvtbw s
  | .ror n c => Sys2Proof.Machine.execRor n c s
  | .rol n c => Sys2Proof.Machine.execRol n c s
  | .rorc n c => Sys2Proof.Machine.execRorc n c s
  | .rolc n c => Sys2Proof.Machine.execRolc n c s
  | .shr n c => Sys2Proof.Machine.execShr n c s
  | .shl n c => Sys2Proof.Machine.execShl n c s
  | .shrw n c => Sys2Proof.Machine.execShrw n c s
  | .shlw n c => Sys2Proof.Machine.execShlw n c s
  | .ror4 m => Sys2Proof.Machine.execRor4 m s
  | .rol4 m => Sys2Proof.Machine.execRol4 m s
  | .mov1Cy x b => Sys2Proof.Machine.execMov1Cy x b s
  | .mov1To x b => Sys2Proof.Machine.execMov1To x b s
  | .and1 neg x b => Sys2Proof.Machine.execAnd1 neg x b s
  | .or1 neg x b => Sys2Proof.Machine.execOr1 neg x b s
  | .xor1 x b => Sys2Proof.Machine.execXor1 x b s
  | .not1 t => Sys2Proof.Machine.execNot1 t s
  | .set1 t => Sys2Proof.Machine.execSet1 t s
  | .clr1 t => Sys2Proof.Machine.execClr1 t s
  | .push o => Sys2Proof.Machine.execPush o s
  | .pushu p => Sys2Proof.Machine.execPushu p s
  | .pop o => Sys2Proof.Machine.execPop o s
  | .popu p => Sys2Proof.Machine.execPopu p s
  | .addwg w => Sys2Proof.Machine.execAddwg w s
  | .subwg w => Sys2Proof.Machine.execSubwg w s
  | .call t => Sys2Proof.Machine.execCall t s
  | .callf a => Sys2Proof.Machine.execCallf a s
  | .callt t => Sys2Proof.Machine.execCallt t s
  | .brk => Sys2Proof.Machine.execBrk s
  | .brkcs n => Sys2Proof.Machine.execBrkcs n s
  | .ret => Sys2Proof.Machine.execRet s
  | .reti => Sys2Proof.Machine.execReti s
  | .retb => Sys2Proof.Machine.execRetb s
  | .retcs w => Sys2Proof.Machine.execRetcs w s
  | .retcsb w => Sys2Proof.Machine.execRetcsb w s
  | .br t => Sys2Proof.Machine.execBr t s
  | .bnz d => Sys2Proof.Machine.execBnz d s
  | .bne d => Sys2Proof.Machine.execBne d s
  | .bz d => Sys2Proof.Machine.execBz d s
  | .be d => Sys2Proof.Machine.execBe d s
  | .bnc d => Sys2Proof.Machine.execBnc d s
  | .bnl d => Sys2Proof.Machine.execBnl d s
  | .bc d => Sys2Proof.Machine.execBc d s
  | .bl d => Sys2Proof.Machine.execBl d s
  | .bnv d => Sys2Proof.Machine.execBnv d s
  | .bpo d => Sys2Proof.Machine.execBpo d s
  | .bv d => Sys2Proof.Machine.execBv d s
  | .bpe d => Sys2Proof.Machine.execBpe d s
  | .bp d => Sys2Proof.Machine.execBp d s
  | .bn d => Sys2Proof.Machine.execBn d s
  | .blt d => Sys2Proof.Machine.execBlt d s
  | .bge d => Sys2Proof.Machine.execBge d s
  | .ble d => Sys2Proof.Machine.execBle d s
  | .bgt d => Sys2Proof.Machine.execBgt d s
  | .bnh d => Sys2Proof.Machine.execBnh d s
  | .bh d => Sys2Proof.Machine.execBh d s
  | .bf x b d => Sys2Proof.Machine.execBf x b d s
  | .bt x b d => Sys2Proof.Machine.execBt x b d s
  | .btclr x b d => Sys2Proof.Machine.execBtclr x b d s
  | .bfset x b d => Sys2Proof.Machine.execBfset x b d s
  | .dbnz t d => Sys2Proof.Machine.execDbnz t d s
  | .location lo hi => Sys2Proof.Machine.execLocation lo hi s
  | .sel n => Sys2Proof.Machine.execSel n s
  | .selAlt n => Sys2Proof.Machine.execSelAlt n s
  | .swrs => Sys2Proof.Machine.execSwrs s
  | .nop => Sys2Proof.Machine.execNop s
  | .ei => Sys2Proof.Machine.execEi s
  | .di => Sys2Proof.Machine.execDi s
  | .chkl o => Sys2Proof.Machine.execChkl o s
  | .chkla o => Sys2Proof.Machine.execChkla o s
  | .movtblw lo count => Sys2Proof.Machine.execMovtblw lo count s
  | .movm d => Sys2Proof.Machine.execMovm d s
  | .xchm d => Sys2Proof.Machine.execXchm d s
  | .movbk d => Sys2Proof.Machine.execMovbk d s
  | .xchbk d => Sys2Proof.Machine.execXchbk d s
  | .cmpme d => Sys2Proof.Machine.execCmpme d s
  | .cmpmne d => Sys2Proof.Machine.execCmpmne d s
  | .cmpmc d => Sys2Proof.Machine.execCmpmc d s
  | .cmpmnc d => Sys2Proof.Machine.execCmpmnc d s
  | .cmpbke d => Sys2Proof.Machine.execCmpbke d s
  | .cmpbkne d => Sys2Proof.Machine.execCmpbkne d s
  | .cmpbkc d => Sys2Proof.Machine.execCmpbkc d s
  | .cmpbknc d => Sys2Proof.Machine.execCmpbknc d s

end Sys2Proof.Machine
end

