-- ==== Sys2Proof/Machine/Fetch.lean ====
section
/-! DEFINITION. Fetching an instruction's bytes (20_memory R115, R133; 30_encoding R170). -/

namespace Sys2Proof.Machine

/-- The byte at a program address, where fetching is allowed: internal ROM, PRAM, external memory (R115). -/
def State.codeByteAt (s : State) (p : Place) : Option Byte :=
  match p with
  | .rom n => some (Memory.read s.mem n)
  | .ext n => some (Memory.read s.mem n)
  | .ram k => if k < 0xFD00 then some (Memory.read s.ram k) else none
  | _ => none

def State.codeByte (s : State) (p : PAddr) : Option Byte := s.codeByteAt (s.place (p.setWidth 24))

/-- The bytes from `p` on, at most `n`, up to the first that cannot be fetched; addresses are modulo 2^20. -/
def State.codeBytes (s : State) (n : Nat) (p : PAddr) : List Byte :=
  match n with
  | 0 => []
  | n + 1 =>
    match s.codeByte p with
    | some b => b :: s.codeBytes n (p + 1)
    | none => []

/-- The seven bytes an instruction may have. -/
def State.fetch (s : State) : List Byte := s.codeBytes 7 s.pc

/-- Write one byte where fetching reads it; elsewhere nothing. -/
def State.placeByteAt (s : State) (p : Place) (b : Byte) : State :=
  match p with
  | .rom n => { s with mem := Memory.write s.mem n b }
  | .ext n => { s with mem := Memory.write s.mem n b }
  | .ram k => s.setRam8 k b
  | _ => s

/-- Write bytes from `p` on where fetching reads them; elsewhere nothing. -/
def State.placeCode (s : State) (p : PAddr) (bs : List Byte) : State :=
  match bs with
  | [] => s
  | b :: bs => (s.placeByteAt (s.place (p.setWidth 24)) b).placeCode (p + 1) bs

end Sys2Proof.Machine
end

