-- ==== Sys2Proof/Machine/Interrupt.lean ====
section
/-! DEFINITION. What happens at an instruction boundary: reset, acknowledgment of hardware requests, macro
service (60_exceptions R835 to R842, 70_reset_and_hazards R900, R901). -/

namespace Sys2Proof.Machine

/-- Nothing presented. -/
def Boundary.none : Boundary :=
  { reset := false, nmi := false, wdt := false, macroService := Option.none, request := Option.none,
    release := false }

/-- The coming boundary, and the state with it consumed. -/
def State.nextBoundary (s : State) : Boundary × State :=
  match s.inputs with
  | [] => (Boundary.none, s)
  | b :: bs => (b, { s with inputs := bs })

/-- What a RESET input sets before the vector is read (R901): PSW 0, SP undefined, the internal data area at
LOCATION 0H, nothing in service, a deadlock left (R900); memory and registers stay. STBC and WDM take
undefined bytes (log 43). -/
def State.initialized (s : State) : State :=
  { (s.tell .reset).setSp ((Config.undef s.draws).extractLsb' 0 24) with
      psw := State.reset.psw, loc0f := false, locDone := false, ispr := State.reset.ispr,
      hold := false, stopped := false, deadlocked := false, afterReset := true, draws := s.draws + 2,
      stbc := (Config.undef (s.draws + 1)).extractLsb' 0 8,
      wdm := (Config.undef (s.draws + 1)).extractLsb' 8 8 }

/-- PC from the reset vector at 000000H (R901). -/
def resetVector : Act Unit := do
  let target ← readMem16 0
  jump (target.setWidth 20)

/-- A hardware request is taken: the host is told, and the CPU runs again (R838, R852). That the host is told before
the frame is written and the vector read, not after, is the model's choice (DESIGN CHOICE, log 54). -/
def State.acked (s : State) (vec : Nat) : State := { s.tell (.ack vec) with stopped := false }

/-- NMI and WDT (R836): vectored whatever IE is, their flag added to ISPR; the host is told first (log 54). -/
def takeNmi : Act Unit := do
  modify (·.acked vecNmi)
  let s ← get
  acknowledge vecNmi s.pc
  modify fun t => { t with ispr := { t.ispr with nmi := true } }

def takeWdt : Act Unit := do
  modify (·.acked vecWdt)
  let s ← get
  acknowledge vecWdt s.pc
  modify fun t => { t with ispr := { t.ispr with wdt := true } }

/-- Vector address of a maskable source (R834). -/
def Request.vec (r : Request) : Nat := 0x06 + 2 * r.src.val

/-- A maskable request is taken by vectoring (R835) or by context switching (R841); its level joins ISPR. The
acknowledgment is told to the host before the accesses (log 54). -/
def takeRequest (r : Request) : Act Unit := do
  modify (·.acked r.vec)
  if r.ctx then
    let n ← readByte (BitVec.ofNat 24 r.vec)
    modify fun s => s.contextSwitch (n.extractLsb' 0 3) s.pc
  else
    let s ← get
    acknowledge r.vec s.pc
  modify fun t => { t with ispr := t.ispr.add r.level }

/-- A byte written from outside the CPU: RAM and external memory change, an SFR is the host's own. -/
def State.pokeAt (s : State) (p : Place) (v : Byte) : State :=
  match p with
  | .ram k => s.setRam8 k v
  | .ext n => { s with mem := Memory.write s.mem n v }
  | _ => s

def State.poke (s : State) (a : Long) (v : Byte) : State := s.pokeAt (s.place a) v

def State.pokes (s : State) (ws : List (Long × Byte)) : State :=
  ws.foldl (fun t w => t.poke w.1 w.2) s

/-- A macro service step (R842): memory and SFRs change, nothing else of the CPU. -/
def State.macroStep (s : State) (ws : List (Long × Byte)) : State :=
  (s.tell (.macroService ws)).pokes ws

/-- What the boundary leads to. -/
inductive Event where
  | reset
  | nmi
  | wdt
  | macroService (ws : List (Long × Byte))
  | request (r : Request)
  /-- Nothing is acknowledged: the next instruction, or nothing while stopped or deadlocked. -/
  | proceed
deriving DecidableEq, Repr

/-- A maskable request is acknowledged when IE = 1 and its level is above every level in service (R837, R840). -/
def State.accepts (s : State) (r : Request) : Bool := s.psw.ie && s.ispr.allows r.level

/-- The order of R837: reset (R900), which alone a deadlocked CPU sees; HOLD and the closed boundary after
reset (R903); NMI, macro service, maskable. HOLD closes one boundary (R837), so after EI, DI, LOCATION or MOV
PSWL a repeat instruction runs one pass before a request can be taken: the model's choice (log 16). -/
def State.event (s : State) (b : Boundary) : Event :=
  if b.reset then .reset
  else if s.deadlocked || s.hold || s.afterReset then .proceed
  else if b.nmi && s.cfg.hasNmi then .nmi
  else if b.wdt && s.cfg.hasWdt then .wdt
  else match b.macroService with
    | some ws => .macroService ws
    | none =>
      match b.request with
      | some r => if s.accepts r then .request r else .proceed
      | none => .proceed

/-- The action of an acknowledged event. -/
def takeEvent (e : Event) : Act Unit :=
  match e with
  | .reset => resetVector
  | .nmi => takeNmi
  | .wdt => takeWdt
  | .macroService ws => modify (·.macroStep ws)
  | .request r => takeRequest r
  | .proceed => return ()

/-- The instructions that may pause between passes (R848). -/
def pausable : Instr → Bool
  | .sacw | .movm _ | .xchm _ | .movbk _ | .xchbk _ | .cmpme _ | .cmpmne _ | .cmpmc _ | .cmpmnc _
  | .cmpbke _ | .cmpbkne _ | .cmpbkc _ | .cmpbknc _ => true
  | _ => false

/-- After an instruction the boundary after reset is open, unless the instruction has paused at its own
start `start` between two passes (R848, R903). -/
def State.completed (s : State) (start : PAddr) (i : Instr) : State :=
  { s with afterReset := s.afterReset && pausable i && s.pc == start }

end Sys2Proof.Machine
end

