-- ==== Sys2Proof/Machine/Cycle.lean ====
section
/-! DEFINITION. One step of the machine (00_scope R10): the boundary, then an acknowledged event or one
instruction. -/

namespace Sys2Proof.Machine

/-- The state an instruction of `length` bytes executes in: `pc` past it. -/
def State.past (s : State) (length : Nat) : State := { s with pc := s.pc + BitVec.ofNat 20 length }

/-- The stuck state (20_memory R111, D13): as before the instruction or event that did not complete (log 10). -/
def State.stuck (s : State) : State := { s with deadlocked := true }

/-- An access that does not complete leaves `s` stuck. -/
def State.orStuck (s : State) (o : Host.Outcome State Fault Refusal) : Host.Outcome State Fault Refusal :=
  match o with
  | .next t => .next t
  | .fault .deadlock => .next s.stuck
  | .refused r => .refused r

/-- Fetch, decode, execute (R10). -/
def runInstruction (s : State) : Host.Outcome State Fault Refusal :=
  match decode s.cfg.opcodes s.fetch with
  | .ok i rest =>
    match exec i (s.past (decodedLength s.fetch rest)) with
    | .next t => .next (t.completed s.pc i)
    | .fault .deadlock => .next s.stuck
    | .refused r => .refused r
  | .truncated => .refused .fetchOutside
  | .unassigned => .refused .undefinedOpcode

/-- The state at a boundary: the host may have released the standby condition. -/
def State.atBoundary (s : State) (b : Boundary) : State :=
  { s with stopped := s.stopped && !b.release }

/-- The state an event is taken in: a RESET input first sets what it sets (R901). -/
def State.entered (s : State) (e : Event) : State :=
  match e with
  | .reset => s.initialized
  | _ => s

/-- One CPU step (R10, 60_exceptions R837). An acknowledged event is a step of its own; a stopped CPU does
nothing (70_reset_and_hazards R922), nor does a deadlocked one, which only a RESET input sets going again
(R900, D13). A boundary clears HOLD (R837), that between two passes of a repeat instruction too: the model's
choice (log 16). -/
def stepOnce (s : State) : Host.Outcome State Fault Refusal :=
  let b := s.nextBoundary.1
  let s1 := s.nextBoundary.2.atBoundary b
  match s1.event b with
  | .proceed =>
    let s2 : State := { s1 with hold := false }
    if s2.stopped || s2.deadlocked then .next s2 else runInstruction s2
  | e => (s1.entered e).orStuck (run (takeEvent e) (s1.entered e))

/-- The state whose next step runs the instruction of a table word: its bytes at `pc`, no event presented,
the CPU neither stopped nor deadlocked. -/
def State.loadWord (s : State) (nbits w : Nat) : State :=
  { s.placeCode s.pc (tableBytes s.cfg.opcodes nbits w) with
      inputs := [], stopped := false, deadlocked := false }

end Sys2Proof.Machine
end

