-- ==== Sys2Proof/Machine/Step.lean ====
section
/-! DEFINITION. The machine's step, and the placing of one instruction where it fetches. -/

namespace Sys2Proof.Machine

/-- One step of the machine (Cycle.lean). -/
def step (s : State) : Host.Outcome State Fault Refusal := stepOnce s

/-- `s` with the instruction of a table word stored where `step` fetches its next instruction. -/
def State.withFetchWord (s : State) (nbits w : Nat) : State := s.loadWord nbits w

end Sys2Proof.Machine
end

