-- ==== Sys2Proof/Safety.lean ====
section
/-! DEFINITION. The terms the statements use: the invariant of the machine, which accesses complete, and
what an instruction may write. -/

namespace Sys2Proof.Machine

/-! ## The invariant every step keeps -/

/-- Every entry of a memory lies in `[lo, hi)`. -/
def Memory.within (lo hi : Nat) (m : Memory) : Prop := ∀ c ∈ m, lo ≤ c.1 ∧ c.1 < hi

/-- Both memories in canonical form and inside their areas (20_memory R103, R106), SP without the bits the
product lacks (10_state R47), and the internal data area moved only by the one LOCATION the product allows
(10_state R56, 70_reset_and_hazards R904). -/
structure State.Inv (s : State) : Prop where
  ramForm : s.ram.wf = true
  memForm : s.mem.wf = true
  ramArea : Memory.within s.ramBase 0xFF00 s.ram
  memArea : Memory.within 0 0x1000000 s.mem
  spBits : s.sp &&& s.cfg.spMask = s.sp
  location : s.loc0f = true → s.locDone = true ∧ s.cfg.locationFixed0 = false

/-! ## What an instruction may write -/

/-- Bytes by absolute address, and extension registers by their place in `vutw`. -/
structure Footprint where
  bytes : List Long
  exts : List (Fin 32)
deriving DecidableEq, Repr

def Footprint.nothing : Footprint := ⟨[], []⟩

def Footprint.and (f g : Footprint) : Footprint := ⟨f.bytes ++ g.bytes, f.exts ++ g.exts⟩

/-- `t` has every byte of RAM, ROM and external memory, and so every general register, and every extension
register as `s` has it, but for those of the footprint. -/
def State.keeps (s t : State) (f : Footprint) : Prop :=
  (∀ a, a ∉ f.bytes → t.peek a = s.peek a) ∧ (∀ i : Fin 32, i ∉ f.exts → t.vutw[i] = s.vutw[i])

/-- The address of a byte of internal RAM (10_state R53). -/
def State.ramAddr (s : State) (k : Nat) : Long := BitVec.ofNat 24 (s.locBase + k)

def State.footR8 (s : State) (n : R8) : Footprint := ⟨[s.ramAddr (regKey s.psw.rbs n)], []⟩

def State.footRpOf (s : State) (b : BitVec 3) (n : RP) : Footprint :=
  ⟨[s.ramAddr (pairKey b n), s.ramAddr (pairKey b n + 1)], []⟩

def State.footRp (s : State) (n : RP) : Footprint := s.footRpOf s.psw.rbs n

def State.footRg (s : State) (g : RG) : Footprint :=
  ⟨(s.footRp g.pair).bytes, [extIdx s.psw.rbs g.ext]⟩

/-- The bytes of an access of `n` bytes. -/
def bytesAt (a : Long) (n : Nat) : List Long := (List.range n).map fun i => a + BitVec.ofNat 24 i

def State.footLoc8 (s : State) (l : Loc8) : Footprint :=
  match l with
  | .ram k => ⟨[s.ramAddr k], []⟩
  | .mem a => ⟨bytesAt a 1, []⟩
  | .ext i => ⟨[], [i]⟩
  | .imm _ | .pswl | .pswh => Footprint.nothing

def State.footLoc16 (s : State) (l : Loc16) : Footprint :=
  match l with
  | .ram k => ⟨[s.ramAddr k, s.ramAddr (k + 1)], []⟩
  | .mem a => ⟨bytesAt a 2, []⟩
  | .pswSfr o => (s.footLoc8 (s.sfrLoc o)).and (s.footLoc8 (s.sfrNext o))
  | .imm _ => Footprint.nothing

def State.footLoc24 (s : State) (l : Loc24) : Footprint :=
  match l with
  | .reg k i => ⟨[s.ramAddr k, s.ramAddr (k + 1)], [i]⟩
  | .mem a => ⟨bytesAt a 3, []⟩
  | .imm _ | .sp => Footprint.nothing

/-- The pointer a `mem` operand moves (20_memory R121). -/
def State.footMem (s : State) (m : Mem) : Footprint :=
  match m with
  | .rind .tdeInc | .rind .tdeDec => s.footRg .tde
  | .rind .whlInc | .rind .whlDec => s.footRg .whl
  | _ => Footprint.nothing

def State.footPtr8 (s : State) (o : Op8) : Footprint :=
  match o with
  | .mem m => s.footMem m
  | _ => Footprint.nothing

def State.footPtr16 (s : State) (o : Op16) : Footprint :=
  match o with
  | .mem m => s.footMem m
  | _ => Footprint.nothing

def State.footPtr24 (s : State) (o : Op24) : Footprint :=
  match o with
  | .mem m => s.footMem m
  | _ => Footprint.nothing

/-! ## Which operands can be used: the pointer of an indirect operand, then the place -/

def State.reads8 (s : State) (o : Op8) : Bool := s.pointerOk8 o && (s.locate8 o).1.readable s
def State.writes8 (s : State) (o : Op8) : Bool := s.pointerOk8 o && (s.locate8 o).1.writable s
def State.reads16 (s : State) (o : Op16) : Bool := s.pointerOk16 o && (s.locate16 o).1.readable s
def State.writes16 (s : State) (o : Op16) : Bool := s.pointerOk16 o && (s.locate16 o).1.writable s
def State.reads24 (s : State) (o : Op24) : Bool := s.pointerOk24 o && (s.locate24 o).1.readable s
def State.writes24 (s : State) (o : Op24) : Bool := s.pointerOk24 o && (s.locate24 o).1.writable s

/-- Both operands located, then both read, destination first (43_alu8 R380): the places, the values and the
state after the reads. -/
def State.operands8 (st : State) (d s : Op8) : Pair8 × State :=
  let p := st.locate8 d
  let q := p.2.locate8 s
  let a := p.1.look q.2
  let b := q.1.look a.2
  (⟨p.1, q.1, a.1, b.1⟩, b.2)

def State.operands16 (st : State) (d s : Op16) : Pair16 × State :=
  let p := st.locate16 d
  let q := p.2.locate16 s
  let a := p.1.look q.2
  let b := q.1.look a.2
  (⟨p.1, q.1, a.1, b.1⟩, b.2)

def State.operands24 (st : State) (d s : Op24) : Pair24 × State :=
  let p := st.locate24 d
  let q := p.2.locate24 s
  let a := p.1.look q.2
  let b := q.1.look a.2
  (⟨p.1, q.1, a.1, b.1⟩, b.2)

/-- What the two operands of an 8-bit instruction may write: the destination and the pointers. -/
def State.foot8 (st : State) (d s : Op8) : Footprint :=
  (st.footLoc8 (st.locate8 d).1).and ((st.footPtr8 d).and (st.footPtr8 s))

def State.foot16 (st : State) (d s : Op16) : Footprint :=
  (st.footLoc16 (st.locate16 d).1).and ((st.footPtr16 d).and (st.footPtr16 s))

def State.foot24 (st : State) (d s : Op24) : Footprint :=
  (st.footLoc24 (st.locate24 d).1).and ((st.footPtr24 d).and (st.footPtr24 s))

/-- Only PSW, memory, registers and the model's own records may differ: PC, SP, STBC, WDM, LOCBASE, LOC_DONE,
ISPR, HOLD, the standby, deadlock and reset conditions, the host's inputs and the product are the same. -/
def State.sameControl (s t : State) : Prop :=
  t = { s with psw := t.psw, ram := t.ram, mem := t.mem, vutw := t.vutw, io := t.io, draws := t.draws }

/-- Can the byte of a bit operand be read, and written? -/
def State.readsBit (s : State) (x : BitLoc) : Bool := (s.locateBit x).readable s
def State.writesBit (s : State) (x : BitLoc) : Bool := s.readsBit x && (s.locateBit x).writable s

/-- Can the memory operand of a branch target be read? -/
def State.readsTarget (s : State) (t : Target) : Bool :=
  match t with
  | .indRp n => s.readableN ((s.rp n).setWidth 24) 2
  | .indRg g => s.readableN (s.rg g) 3
  | _ => true

/-- Where CALL and BR go, and the state after the target was read (50_call_return R641 to R647,
51_branch R691 to R698). -/
def State.target (s : State) (t : Target) : PAddr × State :=
  match t with
  | .abs16 w => (w.setWidth 20, s)
  | .abs20 p => (p, s)
  | .rp n => ((s.rp n).setWidth 20, s)
  | .rg g => ((s.rg g).setWidth 20, s)
  | .indRp n => ((s.look16 ((s.rp n).setWidth 24)).1.setWidth 20, (s.look16 ((s.rp n).setWidth 24)).2)
  | .indRg g => ((s.look24 (s.rg g)).1.setWidth 20, (s.look24 (s.rg g)).2)
  | .rel8 d => (s.pc + d.signExtend 20, s)
  | .rel16 d => (s.pc + d.signExtend 20, s)

/-- An address of plain memory: RAM or external memory, where a byte written is read back. -/
def Place.plain : Place → Bool
  | .ram _ | .ext _ => true
  | _ => false

def State.plain (s : State) (a : Long) : Bool := (s.place a).plain

def State.plainN (s : State) (a : Long) (n : Nat) : Bool :=
  (List.range n).all fun i => s.plain (a + BitVec.ofNat 24 i)

/-- The little-endian word and 24-bit value at an address, as `peek` reads the bytes. -/
def State.peek16 (s : State) (a : Long) : Option Word :=
  match s.peek a, s.peek (a + 1) with
  | some lo, some hi => some (hi ++ lo)
  | _, _ => none

def State.peek24 (s : State) (a : Long) : Option Long :=
  match s.peek16 a, s.peek (a + 2) with
  | some w, some b => some (b ++ w)
  | _, _ => none

/-- SP moved `n` bytes down or up stays a value the product's SP can hold. -/
def State.spHolds (s : State) (v : Long) : Prop := v &&& s.cfg.spMask = v

/-- The registers selected by a post byte that PUSH saves, in order (49_stack R601, R605). -/
def selected (ps : List (Nat × RP)) (post : Byte) : List RP :=
  (ps.filter fun p => post.getLsbD p.1).map (·.2)

/-- The sum of products of MACW over `n` words from the pointers `b` and `c`, which count modulo 256, as a whole
number (45_muldiv_mac R480). -/
def State.products (s : State) (b c n : Nat) : Int :=
  match n with
  | 0 => 0
  | n + 1 =>
    s.products b c n +
      (s.ram16 (0xFE00 + (b + 2 * n) % 256)).toInt * (s.ram16 (0xFE00 + (c + 2 * n) % 256)).toInt

/-- No event is presented, and the CPU runs: the coming step executes an instruction. -/
def State.executes (s : State) : Prop :=
  ((s.nextBoundary.2.atBoundary s.nextBoundary.1).event s.nextBoundary.1 = .proceed) ∧
  (s.nextBoundary.2.atBoundary s.nextBoundary.1).stopped = false ∧ s.deadlocked = false

/-- The state the instruction is fetched in. -/
def State.opened (s : State) : State :=
  { s.nextBoundary.2.atBoundary s.nextBoundary.1 with hold := false }

end Sys2Proof.Machine
end

