-- ==== Sys2Proof/Certificates/Slice0/Obligations.lean ====
section
/-! DEFINITION. The statements for the provers. `exec i s` runs `i` with `pc` already past it; a statement
about a free value holds for every value of it. -/

open Sys2Proof Sys2Proof.Machine

/-! ## Encoding -/

/-- Decoding an encoded instruction gives it back, every operand included, and leaves the bytes after it
(30_encoding R170; the second names of six branches decode to the first), whatever the three operation codes of
R194 are, as long as they differ and begin no row of the table (D15, log 25). -/
def Obligations.EncodeThenDecode : Prop :=
  ∀ (o : Opcodes) (i : Instr) (rest : List Byte), o.free → i.wf = true →
    decode o (encode o i ++ rest) = .ok i.canonical rest

/-- What the decoder answers is well formed, and its encoding is the bytes it was read from. -/
def Obligations.DecodeThenEncode : Prop :=
  ∀ (o : Opcodes) (bs rest : List Byte) (i : Instr), decode o bs = .ok i rest → i.wf = true ∧ encode o i ++ rest = bs

/-- Words written out from the spec's examples decode to what they stand for. -/
def Obligations.SpecWordsDecode : Prop :=
  decode Opcodes.default [0x3C#8, 0x25#8, 0x35#8] = .ok (.xch (.r .r3) (.r .r13)) [] ∧
  decode Opcodes.default [0x88#8, 0xD9#8] = .ok (.addg (.rg .tde) (.rg .vvp)) [] ∧
  decode Opcodes.default [0x09#8, 0xA0#8, 0x60#8, 0x05#8] = .ok (.movtblw 0x60#8 0x05#8) [] ∧
  decode Opcodes.default [0x09#8, 0xE1#8, 0x45#8, 0x23#8] = .ok (.br (.abs20 0x12345#20)) [] ∧
  decode Opcodes.default [0x3C#8, 0x30#8, 0x97#8] = .ok (.shr .r15 2) [] ∧
  decode Opcodes.default [0x35#8, 0x0F#8] = .ok (.push (.post 0x0F#8)) [] ∧
  decode Opcodes.default [0x09#8, 0x64#8, 0x41#8, 0x46#8] = .ok .sacw []

/-! ## The machine as a whole -/

/-- A step runs the decoded instruction: where no event is acknowledged, the instruction read at `pc` is
executed with `pc` past it (00_scope R10, 60_exceptions R837). The model's choices: that the boundary after reset
is closed and opens when the first instruction has completed is decision D6 (log 15); that an access which does
not complete leaves the CPU stuck is decision D13, and stuck as it was before the instruction is log 10.
Bytes that are no instruction are refused (30_encoding R195, decision D2, log 29), and so is a needed byte that cannot
be fetched (20_memory R115, decision D18, log 28). Bytes are fetched from `pc` upwards, modulo 2^20 (decision D5, log
35), at most seven, from ROM, PRAM and external memory and not from IRAM or the SFR area (R115). What `past`,
`completed`, `opened` and `executes` say: the boundary is consumed, standby ends by release (log 13), HOLD is cleared
(R837; at a boundary between two passes too, log 16), and nothing presented is acknowledged (in the order of decision
D6, log 14; levels D19, log 17). -/
def Obligations.StepRunsDecoded : Prop :=
  (∀ (s : State) (i : Instr) (rest : List Byte), s.executes →
    decode s.cfg.opcodes s.opened.fetch = .ok i rest →
    step s =
      match exec i (s.opened.past (decodedLength s.opened.fetch rest)) with
      | .next t => .next (t.completed s.opened.pc i)
      | .fault .deadlock => .next { s.opened with deadlocked := true }
      | .refused r => .refused r) ∧
  (∀ s : State, s.executes →
    (decode s.cfg.opcodes s.opened.fetch = .unassigned → step s = .refused .undefinedOpcode) ∧
    (decode s.cfg.opcodes s.opened.fetch = .truncated → step s = .refused .fetchOutside)) ∧
  (∀ (s : State) (p : PAddr) (k : Nat),
    let a : Long := p.setWidth 24
    s.codeByte p = (match s.place a with
      | .rom _ | .ext _ => s.peek a
      | .ram n => if n < 0xFD00 then s.peek a else none
      | .sfr _ | .unmapped => none) ∧
    s.fetch.length ≤ 7 ∧
    (k < s.fetch.length → s.fetch[k]? = s.codeByte (s.pc + BitVec.ofNat 20 k)) ∧
    (s.fetch.length < 7 → s.codeByte (s.pc + BitVec.ofNat 20 s.fetch.length) = none) ∧
    (decode s.cfg.opcodes s.fetch = .truncated → s.fetch.length < 7)) ∧
  (∀ (s : State) (n : Nat) (p : PAddr) (i : Instr) (bs rest : List Byte),
    s.past n = { s with pc := s.pc + BitVec.ofNat 20 n } ∧
    decodedLength bs rest = bs.length - rest.length ∧
    s.completed p i = { s with afterReset := s.afterReset && pausable i && s.pc == p } ∧
    (pausable i = true ↔ i = .sacw ∨ ∃ d, i ∈ [.movm d, .xchm d, .movbk d, .xchbk d, .cmpme d, .cmpmne d,
      .cmpmc d, .cmpmnc d, .cmpbke d, .cmpbkne d, .cmpbkc d, .cmpbknc d])) ∧
  (∀ s : State, s.inputs = [] →
    s.opened = { s with hold := false } ∧ (s.executes ↔ s.stopped = false ∧ s.deadlocked = false)) ∧
  (∀ (s : State) (b : Boundary) (bs : List Boundary), s.inputs = b :: bs →
    s.opened = { s with inputs := bs, stopped := s.stopped && !b.release, hold := false } ∧
    (s.executes ↔ b.reset = false ∧ (s.stopped = false ∨ b.release = true) ∧ s.deadlocked = false ∧
      (s.hold = true ∨ s.afterReset = true ∨
        ((b.nmi && s.cfg.hasNmi) = false ∧ (b.wdt && s.cfg.hasWdt) = false ∧ b.macroService = none ∧
          ∀ r, b.request = some r → s.psw.ie = false ∨ s.ispr.allows r.level = false))))

/-- After reset: every PSW bit 0, so bank 0, RSS = 0 and interrupts disabled; nothing in service, no hold,
LOCATION not done; PC bits 19 to 16 are 0 (10_state R57; the empty ISPR is decision D19, log 17). The CPU is not
deadlocked (70_reset_and_hazards R900). -/
def Obligations.ResetState : Prop :=  State.reset.psw.low = 0x00#8 ∧ State.reset.psw.high 0#4 = 0x00#8 ∧
  State.reset.pc.extractLsb' 16 4 = 0#4 ∧
  (State.reset.ispr.nmi || State.reset.ispr.wdt || State.reset.ispr.l0 || State.reset.ispr.l1 ||
    State.reset.ispr.l2 || State.reset.ispr.l3) = false ∧
  State.reset.locDone = false ∧ State.reset.hold = false ∧ State.reset.deadlocked = false

/-- The state after reset meets the invariant. -/
def Obligations.ResetMeetsInvariant : Prop := State.reset.Inv

/-- Every step keeps the invariant, from every state that meets it. -/
def Obligations.StepKeepsInvariant : Prop :=  ∀ s t : State, s.Inv → step s = .next t → t.Inv

/-- RESET input at a boundary, of a deadlocked CPU too (70_reset_and_hazards R900, R901): PSW 0, PC from the word
at 000000H, the internal data area at LOCATION 0H (decision D1, log 1), nothing in service (decision D19, log
17), standby left (R922, decision D22, log 13), the boundary closed until the first instruction has completed (R903,
decision D6, log 15); memory, registers and the product stay (log 43). Without it a deadlocked CPU stays deadlocked, whatever
else is presented, and does nothing (20_memory R111, decision D13, log 10). A step never ends in a fault. -/
def Obligations.ResetInput : Prop :=
  (∀ (s : State) (b : Boundary) (bs : List Boundary) (w : Word), s.inputs = b :: bs → b.reset = true →
    ({ s with loc0f := false } : State).peek16 0 = some w →
    ∃ t, step s = .next t ∧ t.psw = State.reset.psw ∧ t.pc = w.setWidth 20 ∧ t.loc0f = false ∧
      t.locDone = false ∧ t.hold = false ∧ t.ispr = State.reset.ispr ∧ t.stopped = false ∧
      t.deadlocked = false ∧ t.afterReset = true ∧ t.ram = s.ram ∧ t.mem = s.mem ∧ t.vutw = s.vutw ∧
      t.cfg = s.cfg ∧ t.inputs = bs) ∧
  (∀ s : State, s.deadlocked = true → (∀ b ∈ s.inputs.head?, b.reset = false) →
    ∃ t, step s = .next t ∧
      t = { s with inputs := s.inputs.tail, stopped := t.stopped, hold := false }) ∧
  (∀ (s : State) (r : Fault), step s ≠ .fault r)

/-- STBC and WDM are written by their own instructions only, with the byte that passed the check
(10_state R55, 52_cpu_control R750, R751). -/
def Obligations.StbcAndWdmOnlyByTheirMov : Prop :=  ∀ (i : Instr) (s t : State), exec i s = .next t →
    (t.stbc ≠ s.stbc → ∃ nb, i = .movStbc nb t.stbc ∧ nb ^^^ t.stbc = 0xFF#8) ∧
    (t.wdm ≠ s.wdm → ∃ nb, i = .movWdm nb t.wdm ∧ nb ^^^ t.wdm = 0xFF#8 ∧ s.cfg.hasWdt = true)

/-- No instruction changes ISPR but RETI and RETCS, which remove the highest level in service (60_exceptions
R840, R843). The internal data area moves only by LOCATION, and only once after reset (20_memory R101, 10_state
R56). HOLD is set by MOV PSWL, LOCATION, EI and DI and by nothing else; no instruction clears it (10_state R56,
60_exceptions R846). The model's choices: ISPR is decision D19 (log 17); that a LOCATION with another value does
not use up the one LOCATION is decision D21, and a LOCATION 0FH of a product fixed at 0H the model's own (log 34);
HOLD after EI and DI is decision D24 (log 16). ISPR itself (R840, decision D19, log 17): its flags, the highest
first, are NMI, WDT and the levels 0 to 3; adding a level sets its flag, clearing the highest clears the first flag
that is 1 and no other (none when it is empty), and a level is allowed when no flag at or above it is 1. -/
def Obligations.ControlStateChangedByItsOwn : Prop :=
  (∀ (i : Instr) (s t : State), exec i s = .next t →
    t.ispr = if i = .reti ∨ ∃ w, i = .retcs w then s.ispr.clearHighest else s.ispr) ∧
  (∀ (i : Instr) (s t : State), exec i s = .next t →
    (t.loc0f ≠ s.loc0f ∨ t.locDone ≠ s.locDone) →
      s.locDone = false ∧ t.locDone = true ∧
        (i = .location 0xFE#8 0x01#8 ∧ t.loc0f = false ∨
         i = .location 0xFF#8 0x00#8 ∧ t.loc0f = !s.cfg.locationFixed0)) ∧
  (∀ (i : Instr) (s t : State), exec i s = .next t → t.hold ≠ s.hold →
    t.hold = true ∧ (i = .ei ∨ i = .di ∨ (∃ a b, i = .location a b) ∨ ∃ x, i = .mov .pswl x)) ∧
  (∀ (i : Ispr) (n : Fin 4),
    let flags := fun i : Ispr => [i.nmi, i.wdt, i.l0, i.l1, i.l2, i.l3]
    flags (i.add n) = (flags i).set (2 + n.val) true ∧
    flags i.clearHighest = (flags i).set ((flags i).findIdx id) false ∧
    (i.allows n = true ↔ ∀ k ≤ 2 + n.val, (flags i)[k]? ≠ some true))

/-- No instruction touches what the host presents or the product; the record of exchanges with the host and
the count of free values only grow (logs 8, 9); only MOV STBC stops the CPU (70_reset_and_hazards R922, decision
D22, log 13), and none that completes leaves it deadlocked. -/
def Obligations.HostSideKept : Prop :=  ∀ (i : Instr) (s t : State), exec i s = .next t →
    t.inputs = s.inputs ∧ t.cfg = s.cfg ∧ t.afterReset = s.afterReset ∧ t.deadlocked = s.deadlocked ∧
    s.draws ≤ t.draws ∧
    (∃ l, t.io = l ++ s.io) ∧ (t.stopped ≠ s.stopped → t.stopped = true ∧ ∃ nb b, i = .movStbc nb b)

/-! ## Registers and memory -/

/-- R0 to R15 of every bank are bytes of internal RAM: the byte read at LOCBASE + 0FE80H + (7 - b)*16 + n is
the register, a store there writes it, and a write of it changes no other byte (10_state R48, R53). That the
register keeps its contents when the area moves with LOCBASE is the spec's own inference (R53, "derived: from
rule R48 and 20_memory.md rule R101"). -/
def Obligations.RegistersAreMemory : Prop :=  ∀ (s : State) (n : R8) (v : Byte),
    let a : Long := BitVec.ofNat 24 (s.locBase + 0xFE80 + (7 - s.psw.rbs.toNat) * 16 + n.num)
    s.peek a = some (s.r8 n) ∧ s.store a v = s.setR8 n v ∧
    (s.Inv → (s.setR8 n v).r8 n = v) ∧ s.keeps (s.setR8 n v) ⟨[a], []⟩ ∧
    (∀ l : Bool, ({ s with loc0f := l } : State).r8 n = s.r8 n)

/-- RP(n) is R(2n+1):R(2n), RG(g) is its extension byte and RP(4+g), and writing one of them reads back
(10_state R50, R51). Where register operands lie (R48, R52): X, A, C, B are R0 to R3 and AX is RP0 when RSS = 0, R4 to
R7 and RP2 when RSS = 1; a register number is absolute; DBNZ counts in that B or C or in its saddr (51_branch R740).
That every bank has its own V, U, T, W is decision D29, the model's choice (log 32). Reading and writing each kind
of place: a register's bytes of internal RAM are those at their addresses (R53), the low byte of a pair first; an
immediate has no storage; PSWL and PSWH are the PSW's bytes, the bits of PSWH without storage read undefined (R40);
that a word at sfr offset FDH, FEH or FFH has the PSW's bytes among its two is decision D30, the model's choice (R54,
log 11); SP keeps only the bits the product has (R47). -/
def Obligations.PairsAndLongRegisters : Prop :=
  ([R8.r0, .r1, .r2, .r3, .r4, .r5, .r6, .r7, .r8, .r9, .r10, .r11, .r12, .r13, .r14, .r15].map R8.num
      = List.range 16 ∧
    [RP.rp0, .rp1, .rp2, .rp3, .rp4, .rp5, .rp6, .rp7].map RP.num = List.range 8) ∧
  (∀ s : State,
    let bank := 0xFE80 + (7 - s.psw.rbs.toNat) * 16
    let first := bank + if s.psw.rss then 4 else 0
    (s.psw.rss = false → [s.regX, s.regA, s.regC, s.regB] = [.r0, .r1, .r2, .r3] ∧ s.pairAX = .rp0) ∧
    (s.psw.rss = true → [s.regX, s.regA, s.regC, s.regB] = [.r4, .r5, .r6, .r7] ∧ s.pairAX = .rp2) ∧
    s.locate8 .a = (.ram (first + 1), s) ∧ s.locate16 .ax = (.ram first, s) ∧
    s.a = s.ram8 (first + 1) ∧ s.ax = s.ram8 (first + 1) ++ s.ram8 first ∧
    s.locateLoop .b = .ram (first + 3) ∧ s.locateLoop .c = .ram (first + 2) ∧
    (∀ x : Saddr, s.locateLoop (.saddr x) = .mem (s.eaSaddr x)) ∧
    (∀ n : R8, s.locate8 (.r n) = (.ram (bank + n.num), s)) ∧
    (∀ n : RP, s.locate16 (.rp n) = (.ram (bank + 2 * n.num), s)) ∧
    (∀ p ∈ [(R3.v, 0), (.u, 1), (.t, 2), (.w, 3)],
      ∃ i : Fin 32, i.val = s.psw.rbs.toNat * 4 + p.2 ∧ s.locate8 (.ext p.1) = (.ext i, s)) ∧
    (∀ p ∈ [(RG.vvp, 4, 0), (.uup, 5, 1), (.tde, 6, 2), (.whl, 7, 3)],
      ∃ i : Fin 32, i.val = s.psw.rbs.toNat * 4 + p.2.2 ∧
        s.locate24 (.rg p.1) = (.reg (bank + 2 * p.2.1) i, s) ∧
        s.rg p.1 = s.vutw[i] ++ (s.ram8 (bank + 2 * p.2.1 + 1) ++ s.ram8 (bank + 2 * p.2.1)))) ∧
  (∀ (s : State) (w : Word) (l : Long), s.Inv →
    (∀ n : RP, s.rp n = s.ram8 (regKey s.psw.rbs (R8.ofNum (2 * n.num + 1))) ++
        s.ram8 (regKey s.psw.rbs (R8.ofNum (2 * n.num))) ∧
      (s.setRp n w).rp n = w ∧ s.keeps (s.setRp n w) (s.footRp n)) ∧
    (∀ g : RG, s.rg g = s.ext g.ext ++ s.rp g.pair ∧ (s.setRg g l).rg g = l ∧
      s.keeps (s.setRg g l) (s.footRg g))) ∧
  (∀ (s : State) (k : Nat) (b : BitVec 3) (n : RP) (v : Byte),
    let first := 0xFE80 + (7 - b.toNat) * 16 + 2 * n.num
    (s.ramBase ≤ k → k < 0xFF00 →
      s.peek (s.ramAddr k) = some (s.ram8 k) ∧ s.store (s.ramAddr k) v = s.setRam8 k v) ∧
    s.ram16 k = s.ram8 (k + 1) ++ s.ram8 k ∧ s.rpOf b n = s.ram8 (first + 1) ++ s.ram8 first ∧
    s.setA v = s.setR8 s.regA v ∧ s.axde = s.ax ++ s.rp .rp6) ∧
  (∀ (s : State) (k : Nat) (a : Long) (i : Fin 32) (b v : Byte),
    (Loc8.ram k).look s = (s.ram8 k, s) ∧ (Loc8.ram k).store v s = s.setRam8 k v ∧
    (Loc8.imm b).look s = (b, s) ∧ (Loc8.imm b).store v s = s ∧
    (Loc8.mem a).look s = s.look a ∧ (Loc8.mem a).store v s = s.store a v ∧
    Loc8.pswl.look s = (s.psw.low, s) ∧ Loc8.pswl.store v s = { s with psw := s.psw.setLow v } ∧
    (∃ n, Loc8.pswh.look s = (s.psw.high n, { s with draws := s.draws + 1 })) ∧
    Loc8.pswh.store v s = { s with psw := s.psw.setHigh v } ∧
    (Loc8.ext i).look s = (s.vutw[i], s) ∧ (Loc8.ext i).store v s = { s with vutw := s.vutw.set i v }) ∧
  (∀ (s : State) (k : Nat) (a : Long) (o : Byte) (w v : Word),
    let lo := v.extractLsb' 0 8
    let hi := v.extractLsb' 8 8
    (Loc16.ram k).look s = (s.ram8 (k + 1) ++ s.ram8 k, s) ∧
    (Loc16.ram k).store v s = (s.setRam8 k lo).setRam8 (k + 1) hi ∧
    (Loc16.imm w).look s = (w, s) ∧ (Loc16.imm w).store v s = s ∧
    (Loc16.mem a).look s = s.look16 a ∧ (Loc16.mem a).store v s = s.store16 a v ∧
    (0xFD ≤ o.toNat → s.locate16 (.sfr o) = (.pswSfr o, s)) ∧
    (∀ p ∈ [(0xFD#8, Loc8.mem (s.eaSfr 0xFD#8), Loc8.pswl), (0xFE#8, .pswl, .pswh),
        (0xFF#8, .pswh, .mem (s.eaSfr 0xFF#8 + 1))],
      let x := p.2.1.look s
      let y := p.2.2.look x.2
      (Loc16.pswSfr p.1).look s = (y.1 ++ x.1, y.2) ∧
      (Loc16.pswSfr p.1).store v s = p.2.2.store hi (p.2.1.store lo s))) ∧
  (∀ (s : State) (k : Nat) (a : Long) (i : Fin 32) (l v : Long),
    let t := (s.setRam8 k (v.extractLsb' 0 8)).setRam8 (k + 1) (v.extractLsb' 8 8)
    (Loc24.reg k i).look s = (s.vutw[i] ++ (s.ram8 (k + 1) ++ s.ram8 k), s) ∧
    (Loc24.reg k i).store v s = { t with vutw := s.vutw.set i (v.extractLsb' 16 8) } ∧
    (Loc24.imm l).look s = (l, s) ∧ (Loc24.imm l).store v s = s ∧
    (Loc24.mem a).look s = s.look24 a ∧ (Loc24.mem a).store v s = s.store24 a v ∧
    Loc24.sp.look s = (s.sp, s) ∧ Loc24.sp.store v s = { s with sp := v &&& s.cfg.spMask })

/-- Stores to plain memory read back, little-endian, and change no other byte (20_memory R102, R103). An
instruction reads the bytes of RAM, ROM and external memory as they are, and nothing changes. -/
def Obligations.StoreReadsBack : Prop :=  ∀ (s : State) (a : Long) (v : Byte) (w : Word) (l : Long), s.Inv →
    (s.plain a = true → (s.store a v).peek a = some v) ∧
    (s.plainN a 2 = true → (s.store16 a w).peek16 a = some w) ∧
    (s.plainN a 3 = true → (s.store24 a l).peek24 a = some l) ∧
    s.keeps (s.store a v) ⟨bytesAt a 1, []⟩ ∧ s.keeps (s.store16 a w) ⟨bytesAt a 2, []⟩ ∧
    s.keeps (s.store24 a l) ⟨bytesAt a 3, []⟩ ∧
    (s.peek a = some v → s.look a = (v, s)) ∧ (s.peek16 a = some w → s.look16 a = (w, s)) ∧
    (s.peek24 a = some l → s.look24 a = (l, s))

/-- What an address resolves to: the internal data area hides internal ROM and external memory, and ROM hides
external memory (20_memory R106). Accesses that leave memory alone, and accesses that leave the CPU stuck: a
write to internal ROM or to STBC and WDM does nothing; an SFR offset without a register and an unmapped address
stop the machine (20_memory R103, R111, R113). LOCBASE is 000000H or 0F0000H (R101); internal RAM begins at the
product's RAM_START, at 0FD00H at the latest (R110); the product's SFR map says where a register is (R111), FEH and
FFH not among them by decision D30 (log 11); STBC and WDM lie at the product's two offsets (10_state R55). That
ordinary writes do not reach those two is decision D14 (log 12), the stuck state decision D13 (log 10). A word or 3
bytes wholly on SFRs of the product, neither STBC nor WDM among them for a write, are one access of the host (R128,
R129), at an odd offset too: the model's choice (log 36). -/
def Obligations.AddressesResolve : Prop :=
  (∀ (s : State) (o : Byte),
    s.locBase = (if s.loc0f then 0x0F0000 else 0x000000) ∧ s.ramBase = min s.cfg.ramStart 0xFD00 ∧
    (s.sfrMapped o = true ↔ s.cfg.sfrMask.getLsbD o.toNat = true ∧ o.toNat < 0xFE) ∧
    (s.sfrGuarded o = true ↔ o = s.cfg.stbcOff ∨ o = s.cfg.wdmOff)) ∧
  (∀ (s : State) (a : Long),
    let n := a.toNat
    let inRam := s.locBase + s.ramBase ≤ n ∧ n < s.locBase + 0xFF00
    let inSfr := s.locBase + 0xFF00 ≤ n ∧ n ≤ s.locBase + 0xFFFF
    let inExt := ∃ r ∈ s.cfg.ext, r.1 ≤ n ∧ n ≤ r.2
    (inRam → s.place a = .ram (n - s.locBase)) ∧
    (inSfr → s.place a = .sfr (BitVec.ofNat 8 n)) ∧
    (¬inRam → ¬inSfr → n < s.cfg.romSize → s.place a = .rom n) ∧
    (¬inRam → ¬inSfr → ¬n < s.cfg.romSize → inExt → s.place a = .ext n) ∧
    (¬inRam → ¬inSfr → ¬n < s.cfg.romSize → ¬inExt → s.place a = .unmapped)) ∧
  (∀ (s : State) (a : Long) (v : Byte),
    (∀ n, s.place a = .rom n → run (writeByte a v) s = .next s) ∧
    (∀ o, s.place a = .sfr o → s.sfrGuarded o = true → run (writeByte a v) s = .next s) ∧
    (∀ o, s.place a = .sfr o → s.sfrGuarded o = false → s.sfrMapped o = true →
      run (writeByte a v) s = .next { s with io := .sfrWrite o 1 (v.setWidth 24) :: s.io }) ∧
    (∀ o, s.place a = .sfr o → s.sfrMapped o = true → readByte a s =
      .ok ((Config.sfrRead s.io o 1).setWidth 8, { s with io := .sfrRead o 1 :: s.io })) ∧
    (∀ o, s.place a = .sfr o → s.sfrMapped o = false → readByte a s = .error (.fault .deadlock) ∧
      (s.sfrGuarded o = false → run (writeByte a v) s = .fault .deadlock)) ∧
    (s.place a = .unmapped → readByte a s = .error (.fault .deadlock) ∧
      run (writeByte a v) s = .fault .deadlock)) ∧
  (∀ (s : State) (a : Long) (o : Byte) (w : Word) (l : Long), s.place a = .sfr o →
    let offs := fun n => (List.range n).map fun i => o + BitVec.ofNat 8 i
    let one := fun n => o.toNat + n ≤ 0xFE ∧ ∀ p ∈ offs n, s.sfrMapped p = true
    let free := fun n => one n ∧ ∀ p ∈ offs n, s.sfrGuarded p = false
    (one 2 → s.look16 a =
      ((Config.sfrRead s.io o 2).setWidth 16, { s with io := .sfrRead o 2 :: s.io })) ∧
    (one 3 → s.look24 a = (Config.sfrRead s.io o 3, { s with io := .sfrRead o 3 :: s.io })) ∧
    (free 2 → s.store16 a w = { s with io := .sfrWrite o 2 (w.setWidth 24) :: s.io }) ∧
    (free 3 → s.store24 a l = { s with io := .sfrWrite o 3 l :: s.io }))

/-- Effective addresses (20_memory R116, R117, R121 to R125), sums modulo 2^24. `[saddrp]` is the word of the
short direct area extended with zeros, `[%saddrg]` its three bytes (20_memory R119, R120). A `mem`, `!addr16`,
`!!addr24` or saddr operand of any size lies at its address (R126), and so does an sfr operand, but for the bytes
of the PSW, whose sfr offsets are decision D30, the model's choice (log 11). The byte of a bit operand, in each of
its eleven kinds (48_bit R560); its sfr kind has decision D30 too. -/
def Obligations.EffectiveAddresses : Prop :=
  (∀ (s : State) (b : Byte) (l : Long),
    (s.eaSaddr (.s1 b)).toNat = s.locBase + 0xFE00 + b.toNat ∧
    (0x20 ≤ b.toNat → (s.eaSaddr (.s2 b)).toNat = s.locBase + 0xFD00 + b.toNat) ∧
    (b.toNat < 0x20 → (s.eaSaddr (.s2 b)).toNat = s.locBase + 0xFF00 + b.toNat) ∧
    (s.eaSfr b).toNat = s.locBase + 0xFF00 + b.toNat ∧
    (let a := (s.r8 (if s.psw.rss then .r5 else .r1)).toNat
     let bReg := (s.r8 (if s.psw.rss then .r7 else .r3)).toNat
     let c := (s.r8 (if s.psw.rss then .r6 else .r2)).toNat
     let de := (s.rp .rp6).toNat
     let hl := (s.rp .rp7).toNat
     let tde := (s.rg .tde).toNat
     let whl := (s.rg .whl).toNat
     let vvp := (s.rg .vvp).toNat
     let uup := (s.rg .uup).toNat
     ∀ p ∈ [(Mem.rind .tde, tde), (.rind .whl, whl), (.rind .tdeInc, tde), (.rind .whlInc, whl),
         (.rind .tdeDec, tde), (.rind .whlDec, whl), (.rind .vvp, vvp), (.rind .uup, uup),
         (.based .tde b, tde + b.toNat), (.based .sp b, s.sp.toNat + b.toNat), (.based .whl b, whl + b.toNat),
         (.based .uup b, uup + b.toNat), (.based .vvp b, vvp + b.toNat),
         (.indexed .de l, l.toNat + de), (.indexed .a l, l.toNat + a), (.indexed .hl l, l.toNat + hl),
         (.indexed .b l, l.toNat + bReg),
         (.bidx .tdeA, tde + a), (.bidx .whlA, whl + a), (.bidx .tdeB, tde + bReg), (.bidx .whlB, whl + bReg),
         (.bidx .vvpDe, vvp + de), (.bidx .vvpHl, vvp + hl), (.bidx .tdeC, tde + c), (.bidx .whlC, whl + c)],
       (s.eaMem p.1).toNat = p.2 % 2 ^ 24)) ∧
  (∀ (s : State) (x : Saddr) (w : Word) (l : Long),
    (s.peek16 (s.eaSaddr x) = some w →
      loc8 (.indP x) s = .ok (.mem (w.setWidth 24), s) ∧ loc16 (.indP x) s = .ok (.mem (w.setWidth 24), s)) ∧
    (s.peek24 (s.eaSaddr x) = some l →
      loc8 (.indG x) s = .ok (.mem l, s) ∧ loc16 (.indG x) s = .ok (.mem l, s) ∧
      loc24 (.indG x) s = .ok (.mem l, s))) ∧
  (∀ (s : State) (m : Mem) (x : Saddr) (w : Word) (l : Long),
    (loc8 (.mem m) s = .ok (.mem (s.eaMem m), s) ∧ loc16 (.mem m) s = .ok (.mem (s.eaMem m), s) ∧
      loc24 (.mem m) s = .ok (.mem (s.eaMem m), s)) ∧
    (loc8 (.saddr x) s = .ok (.mem (s.eaSaddr x), s) ∧ loc16 (.saddr x) s = .ok (.mem (s.eaSaddr x), s) ∧
      loc24 (.saddr x) s = .ok (.mem (s.eaSaddr x), s)) ∧
    (loc8 (.abs16 w) s = .ok (.mem (w.setWidth 24), s) ∧ loc16 (.abs16 w) s = .ok (.mem (w.setWidth 24), s)) ∧
    (loc8 (.abs24 l) s = .ok (.mem l, s) ∧ loc16 (.abs24 l) s = .ok (.mem l, s) ∧
      loc24 (.abs24 l) s = .ok (.mem l, s))) ∧
  (∀ (s : State) (b : Byte),
    loc8 (.sfr b) s =
      .ok (if b = 0xFE#8 then .pswl else if b = 0xFF#8 then .pswh else .mem (s.eaSfr b), s) ∧
    (b.toNat < 0xFD → loc16 (.sfr b) s = .ok (.mem (s.eaSfr b), s))) ∧
  (∀ s : State, ∀ p ∈ [(Mem3.rp0, (s.rp .rp0).toNat), (.rp1, (s.rp .rp1).toNat), (.rp2, (s.rp .rp2).toNat),
      (.rp3, (s.rp .rp3).toNat), (.vvp, (s.rg .vvp).toNat), (.uup, (s.rg .uup).toNat),
      (.tde, (s.rg .tde).toNat), (.whl, (s.rg .whl).toNat)],
    (s.eaMem3 p.1).toNat = p.2) ∧
  (∀ (s : State) (x : Saddr) (b : Byte) (w : Word) (l : Long),
    let first := 0xFE80 + (7 - s.psw.rbs.toNat) * 16 + if s.psw.rss then 4 else 0
    s.locateBit (.saddr x) = .mem (s.eaSaddr x) ∧
    s.locateBit (.sfr b) = (if b = 0xFE#8 then .pswl else if b = 0xFF#8 then .pswh else .mem (s.eaSfr b)) ∧
    s.locateBit .regX = .ram first ∧ s.locateBit .regA = .ram (first + 1) ∧
    s.locateBit .pswl = .pswl ∧ s.locateBit .pswh = .pswh ∧
    s.locateBit .tde = .mem (s.rg .tde) ∧ s.locateBit .whl = .mem (s.rg .whl) ∧
    s.locateBit (.abs16 w) = .mem (w.setWidth 24) ∧ s.locateBit (.abs24 l) = .mem l)

/-- Auto-increment and auto-decrement move the pointer by the operand's size after the access, 1, 2 or 3, and touch
nothing else; the other `mem` forms, and the other kinds of operand, move nothing (20_memory R121). -/
def Obligations.PointerUpdate : Prop :=
  (∀ (s : State) (m : Mem),
    s.after8 (.mem m) = s.bump m 1 ∧ s.after16 (.mem m) = s.bump m 2 ∧ s.after24 (.mem m) = s.bump m 3) ∧
  (∀ (s : State) (o : Op8) (p : Op16) (q : Op24),
    ((∀ m, o ≠ .mem m) → s.after8 o = s) ∧ ((∀ m, p ≠ .mem m) → s.after16 p = s) ∧
    ((∀ m, q ≠ .mem m) → s.after24 q = s)) ∧
  ∀ (s : State) (n : Nat), s.Inv →
    (s.bump (.rind .tdeInc) n).rg .tde = s.rg .tde + BitVec.ofNat 24 n ∧
    (s.bump (.rind .whlInc) n).rg .whl = s.rg .whl + BitVec.ofNat 24 n ∧
    (s.bump (.rind .tdeDec) n).rg .tde = s.rg .tde - BitVec.ofNat 24 n ∧
    (s.bump (.rind .whlDec) n).rg .whl = s.rg .whl - BitVec.ofNat 24 n ∧
    (∀ m : Mem, s.sameControl (s.bump m n) ∧ (s.bump m n).psw = s.psw ∧ (s.bump m n).io = s.io ∧
      s.keeps (s.bump m n) (s.footMem m)) ∧
    (∀ m : Mem, s.footMem m = Footprint.nothing → s.bump m n = s)

/-! ## Flags -/

/-- ADDn is the exact sum: result and CY are its low n bits and the carry, Z and S describe the result, V is
signed overflow, AC the carry out of bit 3 (10_state R43). SUBn is the exact difference: CY is the borrow, V
signed overflow, AC the borrow from bit 4 (10_state R44). The parity function is true exactly when the number of 1
bits is even: PAR8, the definition that R45 begins with. -/
def Obligations.SumAndDifferenceFlags : Prop :=
  (∀ (n : Nat) (a b : BitVec n) (c : Bool), 0 < n →
    let r := addN a b c
    r.res = a + b + BitVec.setWidth n (BitVec.ofBool c) ∧
    (r.cy = true ↔ 2 ^ n ≤ a.toNat + b.toNat + c.toNat) ∧
    (r.z = true ↔ r.res = 0#n) ∧ r.s = r.res.msb ∧
    (r.v = true ↔ (a.toInt + b.toInt + c.toNat < -(2 ^ (n - 1) : Int) ∨
      (2 ^ (n - 1) : Int) ≤ a.toInt + b.toInt + c.toNat)) ∧
    (r.ac = true ↔ 16 ≤ a.toNat % 16 + b.toNat % 16 + c.toNat)) ∧
  (∀ (n : Nat) (a b : BitVec n) (c : Bool), 0 < n →
    let r := subN a b c
    r.res = a - b - BitVec.setWidth n (BitVec.ofBool c) ∧
    (r.cy = true ↔ a.toNat < b.toNat + c.toNat) ∧
    (r.z = true ↔ r.res = 0#n) ∧ r.s = r.res.msb ∧
    (r.v = true ↔ (a.toInt - b.toInt - c.toNat < -(2 ^ (n - 1) : Int) ∨
      (2 ^ (n - 1) : Int) ≤ a.toInt - b.toInt - c.toNat)) ∧
    (r.ac = true ↔ a.toNat % 16 < b.toNat % 16 + c.toNat)) ∧
  (∀ v : Byte, par8 v = true ↔ ((List.range 8).map fun i => (v.getLsbD i).toNat).sum % 2 = 0)

/-! ## Data transfer -/

/-- MOV copies the source to the destination and changes no flag unless the destination is the PSW; MOV PSWL
sets HOLD (40_mov R250, R262, R263). -/
def Obligations.MovCopies : Prop :=  ∀ (d s : Op8) (st : State), movForm d s = true → st.writes8 d = true → st.reads8 s = true →
    ∃ t, exec (.mov d s) st = .next t ∧
      (let p := st.locate8 d
       let q := p.2.locate8 s
       let v := q.1.look q.2
       t = { ((p.1.store v.1 v.2).after8 d).after8 s with hold := st.hold || decide (d = .pswl) } ∧
       t.psw = (match p.1 with
         | .pswl => st.psw.setLow v.1
         | .pswh => st.psw.setHigh v.1
         | _ => st.psw)) ∧
      st.sameControl { t with hold := st.hold } ∧ st.keeps t (st.foot8 d s)

/-- MOVW copies 16 bits and no flag changes (41_movw_movg R300); that a word moved to sfr offset FDH, FEH or FFH
goes to PSW bytes is decision D30, the model's choice (10_state R54, log 11). MOVG copies 24 bits; SP keeps only the bits the product has (41_movw_movg R310,
49_stack R620 to R622). -/
def Obligations.MovwMovgCopy : Prop :=
  (∀ (d s : Op16) (st : State), movwForm d s = true → st.writes16 d = true → st.reads16 s = true →
    ∃ t, exec (.movw d s) st = .next t ∧
      (let p := st.locate16 d
       let q := p.2.locate16 s
       let v := q.1.look q.2
       t = ((p.1.store v.1 v.2).after16 d).after16 s ∧ ((∀ o, p.1 ≠ .pswSfr o) → t.psw = st.psw)) ∧
      st.sameControl t ∧ st.keeps t (st.foot16 d s)) ∧
  (∀ (d s : Op24) (st : State), movgForm d s = true → st.writes24 d = true → st.reads24 s = true →
    ∃ t, exec (.movg d s) st = .next t ∧
      (let p := st.locate24 d
       let q := p.2.locate24 s
       let v := q.1.look q.2
       t = ((p.1.store v.1 v.2).after24 d).after24 s ∧
       t.sp = if d = .sp then v.1 &&& st.cfg.spMask else st.sp) ∧
      t.psw = st.psw ∧ st.sameControl { t with sp := st.sp } ∧ st.keeps t (st.foot24 d s))

/-- XCH reads both operands, then writes both; a register exchanged with memory is written last (42_xch_xchw
R350 to R355); `isReg` holds of a register's place and of no other. Where the exchange writes RBS (sfr offset FEH or FFH,
decision D30, log 11) the register is that of the bank selected before: the model's choice (log 55). XCHW, the same for words (42_xch_xchw R360). -/
def Obligations.XchExchanges : Prop :=
  (∀ (d s : Op8) (st : State), xchForm d s = true → st.reads8 d = true → st.reads8 s = true →
    st.writes8 d = true → st.writes8 s = true →
    ∃ t, exec (.xch d s) st = .next t ∧
      (let x := st.operands8 d s
       t = (if x.1.ld.isReg && !x.1.ls.isReg then x.1.ld.store x.1.b (x.1.ls.store x.1.a x.2)
            else x.1.ls.store x.1.a (x.1.ld.store x.1.b x.2)).after8 s) ∧
      st.sameControl t ∧ st.keeps t ((st.foot8 d s).and (st.footLoc8 (st.operands8 d s).1.ls))) ∧
  (∀ (d s : Op16) (st : State), xchwForm d s = true → st.reads16 d = true → st.reads16 s = true →
    st.writes16 d = true → st.writes16 s = true →
    ∃ t, exec (.xchw d s) st = .next t ∧
      (let x := st.operands16 d s
       t = (if x.1.ld.isReg && !x.1.ls.isReg then x.1.ld.store x.1.b (x.1.ls.store x.1.a x.2)
            else x.1.ls.store x.1.a (x.1.ld.store x.1.b x.2)).after16 s) ∧
      st.sameControl t ∧ st.keeps t ((st.foot16 d s).and (st.footLoc16 (st.operands16 d s).1.ls))) ∧
  (∀ (l : Loc8) (m : Loc16), (l.isReg = true ↔ ∃ k, l = .ram k) ∧ (m.isReg = true ↔ ∃ k, m = .ram k))

/-! ## 8-, 16- and 24-bit operations -/

/-- ADD, ADDC, SUB, SUBC, CMP (43_alu8 R380 to R385): both operands read, the five flags from the sum or
difference, the result to the destination (CMP stores nothing). The flags are those unless the
destination is the PSW itself. -/
def Obligations.Alu8Arithmetic : Prop :=  ∀ (d s : Op8) (st : State), alu8Form d s = true → st.reads8 d = true → st.reads8 s = true →
    let x := st.operands8 d s
    let a := x.1.a
    let b := x.1.b
    let c := st.psw.cy
    let flags := fun r : Arith 8 => { st.psw with s := r.s, z := r.z, ac := r.ac, pv := r.v, cy := r.cy }
    (st.writes8 d = true → ∀ p ∈ [(Instr.add d s, addN a b false), (.addc d s, addN a b c),
        (.sub d s, subN a b false), (.subc d s, subN a b c)],
      ∃ t, exec p.1 st = .next t ∧
        t = ((x.1.ld.store p.2.res { x.2 with psw := flags p.2 }).after8 d).after8 s ∧
        (x.1.ld ≠ .pswl → x.1.ld ≠ .pswh → t.psw = flags p.2) ∧
        st.sameControl t ∧ st.keeps t (st.foot8 d s)) ∧
    (∃ t, exec (.cmp d s) st = .next t ∧
      t = (({ x.2 with psw := flags (subN a b false) } : State).after8 d).after8 s ∧
      st.sameControl t ∧ st.keeps t ((st.footPtr8 d).and (st.footPtr8 s)))

/-- AND, OR, XOR (43_alu8 R386 to R388): S, Z and parity of the result, AC and CY kept. -/
def Obligations.Alu8Logic : Prop :=  ∀ (d s : Op8) (st : State), alu8Form d s = true → st.reads8 d = true → st.reads8 s = true →
    st.writes8 d = true →
    let x := st.operands8 d s
    ∀ p ∈ [(Instr.and d s, x.1.a &&& x.1.b), (.or d s, x.1.a ||| x.1.b), (.xor d s, x.1.a ^^^ x.1.b)],
      ∃ t, exec p.1 st = .next t ∧
        t = ((x.1.ld.store p.2 { x.2 with psw := { st.psw with
          s := p.2.msb, z := p.2 == 0#8, pv := par8 p.2 } }).after8 d).after8 s ∧
        st.sameControl t ∧ st.keeps t (st.foot8 d s)

/-- ADDW, SUBW, CMPW (44_alu16_24 R430 to R433): S, Z, P/V, CY from the exact result; AC is left undefined, so
the statement says nothing of it. ADDG, SUBG (44_alu16_24 R440 to R442), 24 bits, AC undefined. -/
def Obligations.AluWide : Prop :=
  (∀ (d s : Op16) (st : State), alu16Form d s = true → st.reads16 d = true → st.reads16 s = true →
    let x := st.operands16 d s
    let flags := fun (r : Arith 16) (ac : Bool) =>
      { st.psw with s := r.s, z := r.z, ac := ac, pv := r.v, cy := r.cy }
    (st.writes16 d = true → ∀ p ∈ [(Instr.addw d s, addN x.1.a x.1.b false),
        (.subw d s, subN x.1.a x.1.b false)],
      ∃ t ac, exec p.1 st = .next t ∧
        t = x.1.ld.store p.2.res { x.2 with psw := flags p.2 ac, draws := x.2.draws + 1 } ∧
        st.sameControl t ∧ st.keeps t (st.foot16 d s)) ∧
    (∃ t ac, exec (.cmpw d s) st = .next t ∧
      t = { x.2 with psw := flags (subN x.1.a x.1.b false) ac, draws := x.2.draws + 1 } ∧
      st.sameControl t ∧ st.keeps t Footprint.nothing)) ∧
  (∀ (d s : Op24) (st : State), alu24Form d s = true → st.reads24 s = true →
    let x := st.operands24 d s
    let flags := fun (r : Arith 24) (ac : Bool) =>
      { st.psw with s := r.s, z := r.z, ac := ac, pv := r.v, cy := r.cy }
    ∀ p ∈ [(Instr.addg d s, addN x.1.a x.1.b false), (.subg d s, subN x.1.a x.1.b false)],
      ∃ t ac, exec p.1 st = .next t ∧
        t = x.1.ld.store p.2.res { x.2 with psw := flags p.2 ac, draws := x.2.draws + 1 } ∧
        t.psw = flags p.2 ac ∧ st.sameControl t ∧ st.keeps t (st.foot24 d s))

/-! ## Multiplication, division, sums of products -/

/-- MULU, MULUW, MULW (45_muldiv_mac R470 to R472): exact products, no flag changed. With rp = AX the high
half is what stays. -/
def Obligations.Multiply : Prop :=  ∀ (s : State) (n : R8) (p : RP), s.Inv →
    (∃ t, exec (.mulu n) s = .next t ∧ t.ax.toNat = s.a.toNat * (s.r8 n).toNat ∧
      t = { s with ram := t.ram } ∧ s.keeps t (s.footRp s.pairAX)) ∧
    (∃ t, exec (.muluw p) s = .next t ∧
      t.ax.toNat = s.ax.toNat * (s.rp p).toNat / 2 ^ 16 ∧
      (p ≠ s.pairAX → (t.rp p).toNat = s.ax.toNat * (s.rp p).toNat % 2 ^ 16) ∧
      t = { s with ram := t.ram } ∧ s.keeps t ((s.footRp s.pairAX).and (s.footRp p))) ∧
    (∃ t, exec (.mulw p) s = .next t ∧
      t.ax.toInt = s.ax.toInt * (s.rp p).toInt / 2 ^ 16 ∧
      (p ≠ s.pairAX → ((t.rp p).toNat : Int) = s.ax.toInt * (s.rp p).toInt % 2 ^ 16) ∧
      t = { s with ram := t.ram } ∧ s.keeps t ((s.footRp s.pairAX).and (s.footRp p)))

/-- DIVUW and DIVUX (45_muldiv_mac R473, R474): quotient to AX or AXDE, then the remainder to the divisor's
register, which is written last; division by 0 gives all ones and the old X or DE. Where the divisor's register
is a part of AX or AXDE the rest of the quotient stands in the other part. -/
def Obligations.Divide : Prop :=  ∀ (s : State) (n : R8) (p : RP), s.Inv →
    (∃ t, exec (.divuw n) s = .next t ∧ t = { s with ram := t.ram } ∧
      s.keeps t ((s.footRp s.pairAX).and (s.footR8 n)) ∧
      (let q := if s.r8 n = 0#8 then 0xFFFF else s.ax.toNat / (s.r8 n).toNat
       let r := if s.r8 n = 0#8 then (s.r8 s.regX).toNat else s.ax.toNat % (s.r8 n).toNat
       (t.r8 n).toNat = r ∧ (n ≠ s.regA → n ≠ s.regX → t.ax.toNat = q) ∧
       (n ≠ s.regA → t.a.toNat = q / 2 ^ 8) ∧ (n ≠ s.regX → (t.r8 s.regX).toNat = q % 2 ^ 8))) ∧
    (∃ t, exec (.divux p) s = .next t ∧ t = { s with ram := t.ram } ∧
      s.keeps t (((s.footRp s.pairAX).and (s.footRp .rp6)).and (s.footRp p)) ∧
      (let q := if s.rp p = 0#16 then 0xFFFFFFFF else s.axde.toNat / (s.rp p).toNat
       let r := if s.rp p = 0#16 then (s.rp .rp6).toNat else s.axde.toNat % (s.rp p).toNat
       (t.rp p).toNat = r ∧ (p ≠ s.pairAX → t.ax.toNat = q / 2 ^ 16) ∧
       (p ≠ .rp6 → (t.rp .rp6).toNat = q % 2 ^ 16)))

/-- MACW and MACSW complete unless a pass finds B or C = FFH; they change PSW flags, AXDE, B and C and nothing
else. A pass with B or C = FFH at its start is refused (45_muldiv_mac R480, R481, U7). Where the first sum
leaves the 32-bit range, P/V is 1, B and C stay, and MACSW leaves the limit in AXDE (45_muldiv_mac R480, R481;
what MACW leaves there is undefined). That a count byte of 0 is 256 passes, and so at least one, is decision D10, the
model's choice (log 21); the refusal is its choice too (log 23). -/
def Obligations.MacStops : Prop :=
  (∀ (s : State) (c : Byte), s.Inv →
    let n := if c = 0x00#8 then 256 else c.toNat
    let pb := (s.r8 s.regB).toNat
    let pc := (s.r8 s.regC).toNat
    ((∀ k < n, (pb + 2 * k) % 256 ≠ 0xFF ∧ (pc + 2 * k) % 256 ≠ 0xFF) →
      ∀ i ∈ [Instr.macw c, .macsw c], ∃ t, exec i s = .next t ∧ s.sameControl t ∧ t.io = s.io ∧
        t.psw.ie = s.psw.ie ∧ t.psw.rss = s.psw.rss ∧ t.psw.uf = s.psw.uf ∧ t.psw.rbs = s.psw.rbs ∧
        s.keeps t (((s.footRp s.pairAX).and (s.footRp .rp6)).and
          ((s.footR8 s.regB).and (s.footR8 s.regC)))) ∧
    (pb = 0xFF ∨ pc = 0xFF → ∀ i ∈ [Instr.macw c, .macsw c], exec i s = .refused .macStraddle)) ∧
  (∀ (s : State) (c : Byte), s.Inv → s.r8 s.regB ≠ 0xFF#8 → s.r8 s.regC ≠ 0xFF#8 →
    let sum := s.axde.toInt + s.products (s.r8 s.regB).toNat (s.r8 s.regC).toNat 1
    (2 ^ 31 ≤ sum ∨ sum < -(2 ^ 31 : Int)) →
    (∀ i ∈ [Instr.macw c, .macsw c], ∃ t, exec i s = .next t ∧ t.psw.pv = true ∧
      t.r8 s.regB = s.r8 s.regB ∧ t.r8 s.regC = s.r8 s.regC) ∧
    (∀ t, exec (.macsw c) s = .next t → t.axde = if 2 ^ 31 ≤ sum then 0x7FFFFFFF#32 else 0x80000000#32))

/-- The sum of products itself: with every partial sum in range, no pointer FFH, and no word after the first read
from A, X, D, E, B or C of the current bank (which the instruction itself changes; the first word may be), AXDE
gains the sum of the products, B and C go past the tables modulo 256 and P/V is 0 (45_muldiv_mac R480, R481).
Where a later word does lie in those registers the statement says nothing; a count byte of 0, 256 passes by
decision D10 (log 21), always comes to one of them or to FFH. -/
def Obligations.MacSum : Prop :=  ∀ (s : State) (c : Byte), s.Inv →
    let n := if c = 0x00#8 then 256 else c.toNat
    let pb := (s.r8 s.regB).toNat
    let pc := (s.r8 s.regC).toNat
    let apart := fun p : Nat => ∀ q ∈ [s.regA, s.regX, s.regB, s.regC, .r12, .r13],
      regKey s.psw.rbs q ≠ 0xFE00 + p ∧ regKey s.psw.rbs q ≠ 0xFE00 + p + 1
    (∀ k < n, (pb + 2 * k) % 256 ≠ 0xFF ∧ (pc + 2 * k) % 256 ≠ 0xFF) →
    (∀ k < n, 1 ≤ k → apart ((pb + 2 * k) % 256) ∧ apart ((pc + 2 * k) % 256)) →
    (∀ k ≤ n, -(2 ^ 31 : Int) ≤ s.axde.toInt + s.products pb pc k ∧
      s.axde.toInt + s.products pb pc k < 2 ^ 31) →
    ∀ i ∈ [Instr.macw c, .macsw c], ∃ t, exec i s = .next t ∧
      t.axde.toInt = s.axde.toInt + s.products pb pc n ∧ t.psw.pv = false ∧
      (t.r8 s.regB).toNat = (pb + 2 * n) % 256 ∧ (t.r8 s.regC).toNat = (pc + 2 * n) % 256

/-- One pass of SACW (45_muldiv_mac R482, D11): AX gains the distance of the two words, CY is the carry, both
pointers go on by 2; on a carry the instruction ends there, else C counts down and the pc returns to the
instruction while C is not 0. S, Z, AC and P/V are undefined. The model's choices: the distance of unsigned words is
decision D11 (log 22); that C = 0 at the start goes on with FFH, 256 passes in all, is decision D10 (log 21); that a
step is one pass and the pc goes back between passes is decision D25 (60_exceptions R848, log 20). -/
def Obligations.SacwPass : Prop :=  ∀ (s : State), s.Inv → s.readableN (s.rg .tde) 2 = true → s.readableN (s.rg .whl) 2 = true →
    let p := s.look16 (s.rg .tde)
    let q := p.2.look16 (s.rg .whl)
    let d := if p.1.toNat ≤ q.1.toNat then q.1.toNat - p.1.toNat else p.1.toNat - q.1.toNat
    ∃ t, exec .sacw s = .next t ∧ t.ax.toNat = (s.ax.toNat + d) % 2 ^ 16 ∧
      (t.psw.cy = true ↔ 2 ^ 16 ≤ s.ax.toNat + d) ∧
      t.rg .tde = s.rg .tde + 2 ∧ t.rg .whl = s.rg .whl + 2 ∧
      t.r8 s.regC = (if t.psw.cy then s.r8 s.regC else s.r8 s.regC - 1) ∧
      t.pc = (if t.psw.cy ∨ t.r8 s.regC = 0#8 then s.pc else s.pc - 4) ∧
      t.io = q.2.io ∧ s.sameControl { t with pc := s.pc } ∧
      t.psw = { s.psw with s := t.psw.s, z := t.psw.z, ac := t.psw.ac, pv := t.psw.pv, cy := t.psw.cy } ∧
      s.keeps t (((s.footRp s.pairAX).and (s.footRg .tde)).and ((s.footRg .whl).and (s.footR8 s.regC)))

/-! ## Increment, decrement, decimal adjustment -/

/-- INC and DEC (46_incdec_adjust R500, R501): S, Z, AC and P/V of the sum or difference with 1, CY kept. -/
def Obligations.IncDecByte : Prop :=  ∀ (o : Op8) (s : State), incForm o = true → s.reads8 o = true → s.writes8 o = true →
    let l := (s.locate8 o).1
    let v := l.look s
    ∀ p ∈ [(Instr.inc o, addN v.1 1#8 false), (.dec o, subN v.1 1#8 false)],
      ∃ t, exec p.1 s = .next t ∧
        t = l.store p.2.res { v.2 with psw := { s.psw with
          s := p.2.s, z := p.2.z, ac := p.2.ac, pv := p.2.v } } ∧
        s.sameControl t ∧ s.keeps t (s.footLoc8 l)

/-- INCW, DECW, INCG, DECG (46_incdec_adjust R502 to R505, 49_stack R625, R626): no flag changes; INCG SP and
DECG SP keep only the bits the product has. ADDWG and SUBWG (49_stack R623, R624): SP moves by the unsigned
word, modulo 2^24, keeps only the bits the product has, and nothing else changes. -/
def Obligations.IncDecWide : Prop :=
  (∀ (o : Op16) (s : State),
    (incwForm o = true → s.reads16 o = true → s.writes16 o = true →
      let l := (s.locate16 o).1
      let v := l.look s
      ∀ p ∈ [(Instr.incw o, v.1 + 1), (.decw o, v.1 - 1)],
        ∃ t, exec p.1 s = .next t ∧ t = l.store p.2 v.2 ∧ t.psw = s.psw ∧ s.sameControl t ∧
          s.keeps t (s.footLoc16 l)) ∧
    (∀ r : RG, ∀ p ∈ [(Instr.incg (.rg r), s.rg r + 1), (.decg (.rg r), s.rg r - 1)],
      ∃ t, exec p.1 s = .next t ∧ t = s.setRg r p.2 ∧ s.keeps t (s.footRg r)) ∧
    (∀ p ∈ [(Instr.incg .sp, s.sp + 1), (.decg .sp, s.sp - 1)],
      exec p.1 s = .next { s with sp := p.2 &&& s.cfg.spMask })) ∧
  (∀ (s : State) (w : Word),
    exec (.addwg w) s = .next { s with sp := BitVec.ofNat 24 (s.sp.toNat + w.toNat) &&& s.cfg.spMask } ∧
    exec (.subwg w) s = .next { s with sp := BitVec.ofInt 24 (s.sp.toNat - w.toNat) &&& s.cfg.spMask })

/-- ADJBA (46_incdec_adjust R510), each row of its table; S, Z and P/V are those of the new A. ADJBS and CVTBW
(46_incdec_adjust R511, R512). Their encodings are 05H FEH, 05H FFH and 04H. -/
def Obligations.DecimalAdjust : Prop :=
  (∀ (o : Opcodes) (rest : List Byte), o.free → decode o (0x05#8 :: 0xFE#8 :: rest) = .ok .adjba rest ∧
    decode o (0x05#8 :: 0xFF#8 :: rest) = .ok .adjbs rest ∧ decode o (0x04#8 :: rest) = .ok .cvtbw rest) ∧
  (∀ (s : State), s.Inv →
    let lo := s.a.toNat % 16
    let hi := s.a.toNat / 16
    let ac := s.psw.ac
    let cy := s.psw.cy
    ∃ t, exec .adjba s = .next t ∧
      (ac = false → lo ≤ 9 → hi ≤ 9 → cy = false → t.a = s.a ∧ t.psw.cy = false ∧ t.psw.ac = false) ∧
      (ac = false → lo ≤ 9 → (10 ≤ hi ∨ cy = true) →
        t.a = s.a + 0x60#8 ∧ t.psw.cy = true ∧ t.psw.ac = false) ∧
      (ac = false → 10 ≤ lo → hi < 9 → cy = false →
        t.a = s.a + 0x06#8 ∧ t.psw.cy = false ∧ t.psw.ac = true) ∧
      (ac = false → 10 ≤ lo → (9 ≤ hi ∨ cy = true) →
        t.a = s.a + 0x66#8 ∧ t.psw.cy = true ∧ t.psw.ac = true) ∧
      (ac = true → hi ≤ 9 → cy = false → t.a = s.a + 0x06#8 ∧ t.psw.cy = false ∧ t.psw.ac = true) ∧
      (ac = true → (10 ≤ hi ∨ cy = true) → t.a = s.a + 0x66#8 ∧ t.psw.cy = true ∧ t.psw.ac = true) ∧
      t.psw = { s.psw with s := t.a.msb, z := t.a == 0#8, pv := par8 t.a, ac := t.psw.ac, cy := t.psw.cy } ∧
      t = { s with ram := t.ram, psw := t.psw } ∧ s.keeps t (s.footR8 s.regA)) ∧
  (∀ (s : State), s.Inv →
    (∃ t, exec .adjbs s = .next t ∧
      t.a = s.a - (if s.psw.cy then 0x60#8 else 0#8) - (if s.psw.ac then 0x06#8 else 0#8) ∧
      t.psw = { s.psw with s := t.a.msb, z := t.a == 0#8, pv := par8 t.a } ∧
      t = { s with ram := t.ram, psw := t.psw } ∧ s.keeps t (s.footR8 s.regA)) ∧
    (∃ t, exec .cvtbw s = .next t ∧ t.ax.toInt = s.a.toInt ∧ t = { s with ram := t.ram } ∧
      s.keeps t (s.footRp s.pairAX)))

/-- Decimal arithmetic: ADD or ADDC followed by ADJBA, and SUB or SUBC followed by ADJBS, on two-digit decimal
numbers give the two digits of the sum or difference and the decimal carry or borrow
(46_incdec_adjust R510, R511). -/
def Obligations.DecimalArithmetic : Prop :=  ∀ (s : State) (a b : Byte) (c : Bool), s.Inv → a.toNat % 16 ≤ 9 → a.toNat / 16 ≤ 9 →
    b.toNat % 16 ≤ 9 → b.toNat / 16 ≤ 9 →
    let dec := fun v : Byte => 10 * (v.toNat / 16) + v.toNat % 16
    (s.a = (addN a b c).res → s.psw.ac = (addN a b c).ac → s.psw.cy = (addN a b c).cy →
      ∃ t, exec .adjba s = .next t ∧ t.a.toNat % 16 ≤ 9 ∧ t.a.toNat / 16 ≤ 9 ∧
        dec t.a + 100 * t.psw.cy.toNat = dec a + dec b + c.toNat) ∧
    (s.a = (subN a b c).res → s.psw.ac = (subN a b c).ac → s.psw.cy = (subN a b c).cy →
      ∃ t, exec .adjbs s = .next t ∧ t.a.toNat % 16 ≤ 9 ∧ t.a.toNat / 16 ≤ 9 ∧
        dec t.a + dec b + c.toNat = dec a + 100 * t.psw.cy.toNat)

/-! ## Shifts, rotates, digits, bits -/

/-- ROR, ROL, RORC, ROLC (47_shift_rotate R530 to R534): a count of 0 does nothing; else the rotated value, P/V
its parity and CY the bit rotated out last, S, Z and AC kept. -/
def Obligations.Rotates : Prop :=  ∀ (s : State) (n : R8) (c : Fin 8),
    let v := s.r8 n
    let x : BitVec 9 := BitVec.ofBool s.psw.cy ++ v
    let done := fun (r : Byte) (cy : Bool) =>
      if c = 0 then s else { s.setR8 n r with psw := { s.psw with pv := par8 r, cy := cy } }
    exec (.ror n c) s = .next (done (v.rotateRight c.val) (v.rotateRight c.val).msb) ∧
    exec (.rol n c) s = .next (done (v.rotateLeft c.val) ((v.rotateLeft c.val).getLsbD 0)) ∧
    exec (.rorc n c) s = .next (done ((x.rotateRight c.val).setWidth 8) (x.rotateRight c.val).msb) ∧
    exec (.rolc n c) s = .next (done ((x.rotateLeft c.val).setWidth 8) (x.rotateLeft c.val).msb)

/-- SHR, SHL, SHRW, SHLW (47_shift_rotate R535 to R538): zeros enter, CY is the last bit shifted out, AC is 0,
S and Z describe the result and P/V is the parity of its low byte; a count of 0 does nothing. -/
def Obligations.Shifts : Prop :=  ∀ (s : State) (n : R8) (p : RP) (c : Fin 8),
    let v := s.r8 n
    let w := s.rp p
    let done8 := fun (r : Byte) (cy : Bool) => if c = 0 then s else
      { s.setR8 n r with psw := { s.psw with
        s := r.msb, z := r == 0#8, ac := false, pv := par8 r, cy := cy } }
    let done16 := fun (r : Word) (cy : Bool) => if c = 0 then s else
      { s.setRp p r with psw := { s.psw with
        s := r.msb, z := r == 0#16, ac := false, pv := par8 (r.setWidth 8), cy := cy } }
    exec (.shr n c) s = .next (done8 (v >>> c.val) (v.getLsbD (c.val - 1))) ∧
    exec (.shl n c) s = .next (done8 (v <<< c.val) (v.getLsbD (8 - c.val))) ∧
    exec (.shrw p c) s = .next (done16 (w >>> c.val) (w.getLsbD (c.val - 1))) ∧
    exec (.shlw p c) s = .next (done16 (w <<< c.val) (w.getLsbD (16 - c.val)))

/-- ROR4 and ROL4 (47_shift_rotate R539, R540): the digits of A's low half and of the byte rotate; A is
written first, then the byte; no flag changes. -/
def Obligations.DigitRotates : Prop :=  ∀ (s : State) (m : Mem3), s.readable (s.eaMem3 m) = true → s.writable (s.eaMem3 m) = true →
    let e := s.eaMem3 m
    let v := s.look e
    let hi := fun b : Byte => b.extractLsb' 4 4
    let lo := fun b : Byte => b.extractLsb' 0 4
    ∀ p ∈ [(Instr.ror4 m, hi s.a ++ lo v.1, lo s.a ++ hi v.1), (.rol4 m, hi s.a ++ hi v.1, lo v.1 ++ lo s.a)],
      ∃ t, exec p.1 s = .next t ∧ t = (v.2.setA p.2.1).store e p.2.2 ∧ t.psw = s.psw ∧
        s.sameControl t ∧ s.keeps t ((s.footR8 s.regA).and ⟨bytesAt e 1, []⟩)

/-- MOV1, AND1, OR1, XOR1 to CY (48_bit R562 to R565): CY from the bit, nothing written. The byte is read as any
operand's byte is; bits 3 to 0 of PSWH read an undefined value, its other bits do not (10_state R40, log 8). -/
def Obligations.BitToCarry : Prop :=
  (∀ (s : State) (l : Loc8) (b : Fin 8), (l ≠ .pswh → l.lookBit b s = l.look s) ∧
    (4 ≤ b.val → (Loc8.pswh.lookBit b s).2 = s ∧
      ∀ n, (Loc8.pswh.lookBit b s).1.getLsbD b.val = (s.psw.high n).getLsbD b.val) ∧
    (b.val < 4 → Loc8.pswh.lookBit b s = Loc8.pswh.look s)) ∧
  ∀ (s : State) (x : BitLoc) (b : Fin 8), s.readsBit x = true →
    let p := (s.locateBit x).lookBit b s
    let v := p.1.getLsbD b.val
    let cy := s.psw.cy
    (∀ q ∈ [(Instr.mov1Cy x b, v), (.and1 false x b, cy && v), (.and1 true x b, cy && !v),
        (.or1 false x b, cy || v), (.or1 true x b, cy || !v), (.xor1 x b, cy ^^ v)],
      ∃ t, exec q.1 s = .next t ∧ t = { p.2 with psw := { s.psw with cy := q.2 } } ∧
        s.sameControl t ∧ s.keeps t Footprint.nothing)

/-- MOV1 to a bit, NOT1, SET1, CLR1 (48_bit R561, R562, R566 to R568): the named bit takes its new value and the
other seven stay; of the PSW only the named bit is written. That the byte is read once and written once, the other
seven bits as read, is the spec's own decision D7, the model's choice (log 48). The PSW's bits (10_state R32, R42):
S, Z, RSS, AC, IE, P/V and CY are bits 7 to 2 and 0 of PSWL, UF and RBS2 to RBS0 bits 7 to 4 of PSWH; a PSW written
reads back as written; bit 1 of PSWL reads 0 and has no storage, nor have bits 3 to 0 of PSWH (R40; a 1 written there
is ignored, the reading of the spec's U9). -/
def Obligations.BitWrites : Prop :=
  (∀ (p : Psw) (n : BitVec 4),
    (List.range 8).reverse.map p.low.getLsbD = [p.s, p.z, p.rss, p.ac, p.ie, p.pv, false, p.cy] ∧
    (List.range 8).reverse.map (p.high n).getLsbD =
      [p.uf, p.rbs.getLsbD 2, p.rbs.getLsbD 1, p.rbs.getLsbD 0,
        n.getLsbD 3, n.getLsbD 2, n.getLsbD 1, n.getLsbD 0]) ∧
  (∀ (p : Psw) (n : BitVec 4) (v : Byte) (w : Word) (b j : Fin 8) (u : Bool),
    (p.setLow v).low = v &&& 0xFD#8 ∧ (p.setLow v).high n = p.high n ∧
    (p.setHigh v).high n = v.extractLsb' 4 4 ++ n ∧ (p.setHigh v).low = p.low ∧
    p.ofWord w = (p.setLow (w.extractLsb' 0 8)).setHigh (w.extractLsb' 8 8) ∧
    p.ofWord (p.high n ++ p.low) = p ∧
    (p.setLowBit b u).low.getLsbD j.val = (if j = b ∧ b ≠ 1 then u else p.low.getLsbD j.val) ∧
    (p.setLowBit b u).high n = p.high n ∧
    ((p.setHighBit b u).high n).getLsbD j.val = (if j = b ∧ 4 ≤ b.val then u else (p.high n).getLsbD j.val) ∧
    (p.setHighBit b u).low = p.low) ∧
  ∀ (s : State) (x : BitLoc) (b : Fin 8),
    (s.writesBit x = true →
      let l := s.locateBit x
      let p := l.lookBit b s
      ∀ q ∈ [(Instr.mov1To x b, s.psw.cy), (.not1 (.bit x b), !p.1.getLsbD b.val), (.set1 (.bit x b), true),
          (.clr1 (.bit x b), false)],
        ∃ t, exec q.1 s = .next t ∧
          t = (match l with
            | .pswl => { p.2 with psw := s.psw.setLowBit b q.2 }
            | .pswh => { p.2 with psw := s.psw.setHighBit b q.2 }
            | l => l.store (setBitOf p.1 b q.2) p.2) ∧
          t = l.storeBit p.1 b q.2 p.2 ∧ s.sameControl t ∧ s.keeps t (s.footLoc8 l)) ∧
    (∀ q ∈ [(Instr.not1 .cy, !s.psw.cy), (.set1 .cy, true), (.clr1 .cy, false)],
      exec q.1 s = .next { s with psw := { s.psw with cy := q.2 } }) ∧
    (∀ (t : Byte) (v : Bool) (j : Fin 8),
      (setBitOf t b v).getLsbD j.val = if j = b then v else t.getLsbD j.val)

/-! ## Stack -/

/-- PUSH PSW, PUSH sfr, PUSH sfrp, PUSH rg (49_stack R602 to R604, R606): the value below SP, then SP lower. The
four bits of PSWH without storage are undefined. POP PSW, POP sfr, POP sfrp, POP rg (49_stack R608 to R610,
R612): the value at SP, then SP higher. POP PSW restores every stored bit of the PSW. A value put into SP loses the
bits the product does not have (10_state R47). -/
def Obligations.PushPopOne : Prop :=
  (∀ (s : State) (v : Long), s.setSp v = { s with sp := v &&& s.cfg.spMask }) ∧
  (∀ (s : State) (o : Byte) (g : RG),
    (s.writableN (s.sp - 2) 2 = true → ∃ (t : State) (n : BitVec 4), exec (.push .psw) s = .next t ∧
      t = ((({ s with draws := s.draws + 1 } : State).store (s.sp - 2) s.psw.low).store (s.sp - 1)
        (s.psw.high n)).setSp (s.sp - 2) ∧
      s.keeps t ⟨bytesAt (s.sp - 2) 2, []⟩) ∧
    (s.writableN (s.sp - 2) 2 = true → s.reads16 (.sfr o) = true →
      let v := (s.locate16 (.sfr o)).1.look s
      ∃ t, exec (.push (.sfrp o)) s = .next t ∧ t = (v.2.store16 (s.sp - 2) v.1).setSp (s.sp - 2) ∧
        s.keeps t ⟨bytesAt (s.sp - 2) 2, []⟩) ∧
    (s.writable (s.sp - 1) = true → s.reads8 (.sfr o) = true →
      let v := (s.locate8 (.sfr o)).1.look s
      ∃ t, exec (.push (.sfr o)) s = .next t ∧ t = (v.2.store (s.sp - 1) v.1).setSp (s.sp - 1) ∧
        s.keeps t ⟨bytesAt (s.sp - 1) 1, []⟩) ∧
    (s.writableN (s.sp - 3) 3 = true →
      ∃ t, exec (.push (.rg g)) s = .next t ∧ t = (s.store24 (s.sp - 3) (s.rg g)).setSp (s.sp - 3) ∧
        s.keeps t ⟨bytesAt (s.sp - 3) 3, []⟩)) ∧
  (∀ (s : State) (o : Byte) (g : RG),
    (s.readableN s.sp 2 = true →
      let l := s.look s.sp
      let h := l.2.look (s.sp + 1)
      exec (.pop .psw) s =
        .next { h.2.setSp (s.sp + 2) with psw := (s.psw.setLow l.1).setHigh h.1 }) ∧
    (s.readableN s.sp 2 = true → s.writes16 (.sfr o) = true →
      let v := s.look16 s.sp
      ∃ t, exec (.pop (.sfrp o)) s = .next t ∧
        t = (s.locate16 (.sfr o)).1.store v.1 (v.2.setSp (s.sp + 2)) ∧
        s.keeps t (s.footLoc16 (s.locate16 (.sfr o)).1)) ∧
    (s.readable s.sp = true → s.writes8 (.sfr o) = true →
      let v := s.look s.sp
      ∃ t, exec (.pop (.sfr o)) s = .next t ∧
        t = (s.locate8 (.sfr o)).1.store v.1 (v.2.setSp (s.sp + 1)) ∧
        s.keeps t (s.footLoc8 (s.locate8 (.sfr o)).1)) ∧
    (s.readableN s.sp 3 = true →
      let v := s.look24 s.sp
      ∃ t, exec (.pop (.rg g)) s = .next t ∧ t = (v.2.setSp (s.sp + 3)).setRg g v.1 ∧
        s.keeps t (s.footRg g)))

/-- PUSH post (49_stack R605): the selected pairs, bit 7 first, each below the one before; nothing else changes.
The stack lies in plain memory outside the bank's registers, and SP can hold its addresses. Which pair a bit of
the post byte selects is PRESUMED, decision D16, the model's choice (R601, log 26). -/
def Obligations.PushListSaves : Prop :=  ∀ (s : State) (post : Byte), s.Inv →
    let ps := selected
      [(7, .rp7), (6, .rp6), (5, .rp5), (4, .rp4), (3, .rp3), (2, .rp2), (1, .rp1), (0, .rp0)] post
    (∀ k ≤ 8, s.spHolds (s.sp - BitVec.ofNat 24 (2 * k))) →
    (∀ a ∈ bytesAt (s.sp - 16) 16, s.plain a = true ∧ ∀ n : RP, a ∉ (s.footRp n).bytes) →
    ∃ t, exec (.push (.post post)) s = .next t ∧
      t.sp = s.sp - BitVec.ofNat 24 (2 * ps.length) ∧
      (∀ i (h : i < ps.length), t.peek16 (s.sp - BitVec.ofNat 24 (2 * (i + 1))) = some (s.rp ps[i])) ∧
      t = { s with sp := t.sp, ram := t.ram, mem := t.mem } ∧
      s.keeps t ⟨bytesAt t.sp (2 * ps.length), []⟩

/-- POP post (49_stack R611): the words at SP to the selected pairs, bit 0 first. Which pair a bit of the post
byte selects is PRESUMED, decision D16, the model's choice (R601, log 26). -/
def Obligations.PopListRestores : Prop :=  ∀ (s : State) (post : Byte) (w : Nat → Word), s.Inv →
    let ps := selected
      [(0, .rp0), (1, .rp1), (2, .rp2), (3, .rp3), (4, .rp4), (5, .rp5), (6, .rp6), (7, .rp7)] post
    (∀ k ≤ 8, s.spHolds (s.sp + BitVec.ofNat 24 (2 * k))) →
    (∀ a ∈ bytesAt s.sp 16, ∀ n : RP, a ∉ (s.footRp n).bytes) →
    (∀ i < ps.length, s.peek16 (s.sp + BitVec.ofNat 24 (2 * i)) = some (w i)) →
    ∃ t, exec (.pop (.post post)) s = .next t ∧
      t.sp = s.sp + BitVec.ofNat 24 (2 * ps.length) ∧
      (∀ i (h : i < ps.length), t.rp ps[i] = w i) ∧
      t = { s with sp := t.sp, ram := t.ram } ∧
      s.keeps t ⟨(ps.map fun n => (s.footRp n).bytes).flatten, []⟩

/-- PUSHU post (49_stack R607): the same on the user stack at UUP, with the PSW in the place of UP; its four
bits without storage are undefined. Which pair a bit of the post byte selects, and that bit 5 is the PSW, is
PRESUMED, decision D16, the model's choice (R601, log 26). -/
def Obligations.PushuSaves : Prop :=  ∀ (s : State) (post : Byte), s.Inv →
    let ps := selected
      [(7, .rp7), (6, .rp6), (5, .rp5), (4, .rp4), (3, .rp3), (2, .rp2), (1, .rp1), (0, .rp0)] post
    let u := s.rg .uup
    (∀ a ∈ bytesAt (u - 16) 16, s.plain a = true ∧ ∀ n : RP, a ∉ (s.footRp n).bytes) →
    ∃ t, exec (.pushu post) s = .next t ∧
      t.rg .uup = u - BitVec.ofNat 24 (2 * ps.length) ∧
      (∀ i (h : i < ps.length), ∃ nib : BitVec 4,
        t.peek16 (u - BitVec.ofNat 24 (2 * (i + 1))) =
          some (if ps[i] = .rp5 then s.psw.high nib ++ s.psw.low else s.rp ps[i])) ∧
      t = { s with ram := t.ram, mem := t.mem, vutw := t.vutw, draws := t.draws } ∧
      s.keeps t ((s.footRg .uup).and ⟨bytesAt (u - BitVec.ofNat 24 (2 * ps.length)) (2 * ps.length), []⟩)

/-- POPU post (49_stack R613): the words at UUP to the selected pairs and, for bit 5, to the PSW. The model's
choices: that the pairs are those of the bank the instruction started in is decision D26 (log 33); which pair a bit
of the post byte selects, and that bit 5 is the PSW, is PRESUMED, decision D16 (R601, log 26). -/
def Obligations.PopuRestores : Prop :=  ∀ (s : State) (post : Byte) (w : Nat → Word), s.Inv →
    let ps := selected
      [(0, .rp0), (1, .rp1), (2, .rp2), (3, .rp3), (4, .rp4), (5, .rp5), (6, .rp6), (7, .rp7)] post
    let u := s.rg .uup
    (∀ a ∈ bytesAt u 16, ∀ n : RP, a ∉ (s.footRp n).bytes) →
    (∀ i < ps.length, s.peek16 (u + BitVec.ofNat 24 (2 * i)) = some (w i)) →
    ∃ t, exec (.popu post) s = .next t ∧
      t.rpOf s.psw.rbs .rp5 = (u + BitVec.ofNat 24 (2 * ps.length)).setWidth 16 ∧
      t.vutw[extIdx s.psw.rbs .u] = (u + BitVec.ofNat 24 (2 * ps.length)).extractLsb' 16 8 ∧
      (∀ i (h : i < ps.length),
        if ps[i] = .rp5 then t.psw = s.psw.ofWord (w i) else t.rpOf s.psw.rbs ps[i] = w i) ∧
      (.rp5 ∉ ps → t.psw = s.psw) ∧
      t = { s with psw := t.psw, ram := t.ram, vutw := t.vutw } ∧
      s.keeps t ((s.footRg .uup).and ⟨(ps.map fun n => (s.footRp n).bytes).flatten, []⟩)

/-! ## Calls, returns, software interrupts -/

/-- CALL, CALLF, CALLT (50_call_return R640 to R649): three bytes of return address below SP, the pc at the
target; the target is read before the stack is written. The model's choices: the upper four bits of the third byte
are 0 by decision D4 (log 41); a target in rg or [rg] counts by its low 20 bits by decision D17 (log 27). -/
def Obligations.Calls : Prop :=  ∀ (s : State) (t : Target) (a : BitVec 11) (n : Fin 32), s.writableN (s.sp - 3) 3 = true →
    let saved := fun u : State => (u.store24 (s.sp - 3) (s.pc.setWidth 24)).setSp (s.sp - 3)
    (callForm t = true → s.readsTarget t = true →
      ∃ v, exec (.call t) s = .next v ∧ v = { saved (s.target t).2 with pc := (s.target t).1 } ∧
        s.keeps v ⟨bytesAt (s.sp - 3) 3, []⟩) ∧
    (∃ v, exec (.callf a) s = .next v ∧ v = { saved s with pc := BitVec.ofNat 20 (0x800 + a.toNat) } ∧
      s.keeps v ⟨bytesAt (s.sp - 3) 3, []⟩) ∧
    (let e : Long := BitVec.ofNat 24 (0x40 + 2 * n.val)
     s.readableN e 2 = true → ∃ v, exec (.callt n) s = .next v ∧
        v = { saved (s.look16 e).2 with pc := (s.look16 e).1.setWidth 20 } ∧
        s.keeps v ⟨bytesAt (s.sp - 3) 3, []⟩)

/-- RET, RETI, RETB (50_call_return R652 to R654): the address, and for RETI and RETB the PSW, from the stack;
RETI clears the highest level in service. Their encodings are 56H, 57H and 5FH. The model's choices: that RET takes
the low 20 bits of the three bytes, whatever the upper four of the third are, is decision D4 (R640, log 41); the ISPR
that RETI clears is decision D19 (60_exceptions R840, log 17). -/
def Obligations.Returns : Prop :=
  (∀ (o : Opcodes) (rest : List Byte), o.free → decode o (0x56#8 :: rest) = .ok .ret rest ∧
    decode o (0x57#8 :: rest) = .ok .reti rest ∧ decode o (0x5F#8 :: rest) = .ok .retb rest) ∧
  ∀ (s : State),
    (s.readableN s.sp 3 = true →
      exec .ret s = .next { (s.look24 s.sp).2.setSp (s.sp + 3) with pc := (s.look24 s.sp).1.setWidth 20 }) ∧
    (s.readableN s.sp 4 = true →
      let lo := s.look16 s.sp
      let w := lo.2.look16 (s.sp + 2)
      let t : State := { w.2.setSp (s.sp + 4) with
        psw := (s.psw.setLow (w.1.setWidth 8)).setHigh (w.1.extractLsb' 8 8),
        pc := w.1.extractLsb' 8 4 ++ lo.1 }
      exec .retb s = .next t ∧ exec .reti s = .next { t with ispr := s.ispr.clearHighest })

/-- RET after CALL (every form), CALLF and CALLT, and RETB after BRK, come back: the pc, SP and PSW of before, on a
stack in plain memory that SP can address (50_call_return R640 to R650, R652, R654). -/
def Obligations.CallThenReturn : Prop :=  ∀ (s : State), s.Inv → s.plainN (s.sp - 4) 4 = true → s.spHolds (s.sp - 3) →
    s.spHolds (s.sp - 4) →
    let back := fun (u : State) (i : Instr) =>
      ∃ v, exec i u = .next v ∧ v.pc = s.pc ∧ v.sp = s.sp ∧ v.psw = s.psw
    (∀ t : Target, callForm t = true → s.readsTarget t = true →
      ∃ u, exec (.call t) s = .next u ∧ u.pc = (s.target t).1 ∧ back u .ret) ∧
    (∀ a : BitVec 11, ∃ u, exec (.callf a) s = .next u ∧ u.pc = BitVec.ofNat 20 (0x800 + a.toNat) ∧ back u .ret) ∧
    (∀ n : Fin 32, let e : Long := BitVec.ofNat 24 (0x40 + 2 * n.val)
      s.readableN e 2 = true →
        ∃ u, exec (.callt n) s = .next u ∧ u.pc = (s.look16 e).1.setWidth 20 ∧ back u .ret) ∧
    (s.readableN 0x3E 2 = true → ∃ u, exec .brk s = .next u ∧ back u .retb)

/-- The 4-byte frame of an acknowledgment and the state on entry (60_exceptions R835, R849): PC in the first two
bytes and the low half of the last, PSWL and PSWH bits 7 to 4 in the others, IE cleared and nothing else of the
PSW, the pc at the word of the vector. BRK (50_call_return R650): the acknowledgment with the vector at 0003EH
and the next address saved, whatever IE is; ISPR stays (decision D19, log 17). That BRK writes its frame as two words, as R835
has it, and not as the four bytes of R650 is the model's choice (log 52). -/
def Obligations.VectoredEntry : Prop :=
  (∀ (s : State) (vec : Nat) (ret : PAddr) (w : Word), s.Inv → s.plainN (s.sp - 4) 4 = true →
    s.spHolds (s.sp - 4) → s.peek16 (BitVec.ofNat 24 vec) = some w →
    (∀ a ∈ bytesAt (BitVec.ofNat 24 vec) 2, a ∉ bytesAt (s.sp - 4) 4) →
    ∃ t, run (acknowledge vec ret) s = .next t ∧ t = s.acknowledge vec ret ∧
      t.peek (s.sp - 4) = some (ret.extractLsb' 0 8) ∧ t.peek (s.sp - 3) = some (ret.extractLsb' 8 8) ∧
      t.peek (s.sp - 2) = some s.psw.low ∧ t.peek (s.sp - 1) = some (s.psw.high (ret.extractLsb' 16 4)) ∧
      t.sp = s.sp - 4 ∧ t.pc = w.setWidth 20 ∧ t.psw = { s.psw with ie := false } ∧
      s.sameControl { t with sp := s.sp, pc := s.pc } ∧ s.keeps t ⟨bytesAt (s.sp - 4) 4, []⟩) ∧
  (∀ (s : State), s.writableN (s.sp - 4) 4 = true → s.readableN 0x3E 2 = true →
    exec .brk s = .next (s.acknowledge 0x3E s.pc) ∧ (s.acknowledge 0x3E s.pc).ispr = s.ispr)

/-- BRKCS RBn (50_call_return R651, 60_exceptions R849): PC to RP2 and RP3 of bank n with the PSW, the pc from
its old RP2, bank n selected, RSS and IE cleared, SP, ISPR and all other memory kept. RETCS and RETCSB
(50_call_return R655, R656): PC and PSW from RP2 and RP3 of the bank being left, whose RP2 takes the operand;
RETCS clears the highest level in service (decision D19, the model's choice, log 17). After BRKCS they restore PC and
PSW. -/
def Obligations.ContextSwitching : Prop :=
  (∀ (s : State) (n : Fin 8), s.Inv →
    let b := BitVec.ofNat 3 n.val
    ∃ t, exec (.brkcs n) s = .next t ∧ t = s.contextSwitch b s.pc ∧ t.pc = (s.rpOf b .rp2).setWidth 20 ∧
      t.rpOf b .rp2 = s.pc.setWidth 16 ∧
      t.rpOf b .rp3 = s.psw.high (s.pc.extractLsb' 16 4) ++ s.psw.low ∧
      t.psw = { s.psw with rbs := b, rss := false, ie := false } ∧
      t = { s with pc := t.pc, psw := t.psw, ram := t.ram } ∧
      s.keeps t ((s.footRpOf b .rp2).and (s.footRpOf b .rp3))) ∧
  (∀ (s : State) (w : Word) (n : Fin 8), s.Inv →
    (∃ t, exec (.retcsb w) s = .next t ∧ t.pc = (s.rp .rp3).extractLsb' 8 4 ++ s.rp .rp2 ∧
      t.psw = s.psw.ofWord (s.rp .rp3) ∧ t.rpOf s.psw.rbs .rp2 = w ∧
      t = { s with pc := t.pc, psw := t.psw, ram := t.ram } ∧ s.keeps t (s.footRp .rp2) ∧
      exec (.retcs w) s = .next { t with ispr := s.ispr.clearHighest }) ∧
    (∃ u v, exec (.brkcs n) s = .next u ∧ exec (.retcsb w) u = .next v ∧ v.pc = s.pc ∧ v.psw = s.psw ∧
      v.sp = s.sp))

/-! ## Branches -/

/-- BR (51_branch R690 to R698): the pc at the target; relative targets count from the next instruction, modulo
2^20; that BR rg and BR [rg] take the low 20 bits of the 24-bit value is decision D17, the model's choice (R694,
R696, log 27). The twenty conditional branches (51_branch R700 to R715): each goes to the displaced address when its
condition on the flags holds and else on, and changes nothing but the pc. -/
def Obligations.Branches : Prop :=
  (∀ (s : State) (t : Target), s.readsTarget t = true →
    exec (.br t) s = .next { (s.target t).2 with pc := (s.target t).1 } ∧
    (∀ d : Byte, (s.target (.rel8 d)).1 = BitVec.ofInt 20 (s.pc.toNat + d.toInt)) ∧
    (∀ d : Word, (s.target (.rel16 d)).1 = BitVec.ofInt 20 (s.pc.toNat + d.toInt))) ∧
  (∀ (s : State) (d : Byte),
    let p := s.psw
    let lt := p.pv ^^ p.s
    ∀ q ∈ [(Instr.bnz d, !p.z), (.bne d, !p.z), (.bz d, p.z), (.be d, p.z), (.bnc d, !p.cy), (.bnl d, !p.cy),
        (.bc d, p.cy), (.bl d, p.cy), (.bnv d, !p.pv), (.bpo d, !p.pv), (.bv d, p.pv), (.bpe d, p.pv),
        (.bp d, !p.s), (.bn d, p.s), (.blt d, lt), (.bge d, !lt), (.ble d, lt || p.z), (.bgt d, !(lt || p.z)),
        (.bnh d, p.z || p.cy), (.bh d, !(p.z || p.cy))],
      exec q.1 s = .next (if q.2 then { s with pc := s.pc + d.signExtend 20 } else s))

/-- BF and BT write nothing; BTCLR and BFSET invert the bit exactly when they branch (51_branch R720 to R723). That
they write nothing when they do not branch is the spec's own inference (R722, "derived: from 'no processing is
performed'", R723 as R722), and that the write is one read and one write of the byte its decision D7 (log 48): the model's choices.
DBNZ (51_branch R740): the counter down by one, branch while it is not 0, no flag changed. -/
def Obligations.BitBranches : Prop :=
  (∀ (s : State) (x : BitLoc) (b : Fin 8) (d : Byte), s.readsBit x = true →
    let l := s.locateBit x
    let p := l.lookBit b s
    let v := p.1.getLsbD b.val
    let goTo := fun t : State => { t with pc := s.pc + d.signExtend 20 }
    exec (.bf x b d) s = .next (if v then p.2 else goTo p.2) ∧
    exec (.bt x b d) s = .next (if v then goTo p.2 else p.2) ∧
    (v = false → exec (.btclr x b d) s = .next p.2) ∧
    (v = true → exec (.bfset x b d) s = .next p.2) ∧
    (s.writesBit x = true →
      (v = true → exec (.btclr x b d) s = .next (goTo (l.storeBit p.1 b false p.2))) ∧
      (v = false → exec (.bfset x b d) s = .next (goTo (l.storeBit p.1 b true p.2)))) ∧
    s.keeps p.2 Footprint.nothing ∧ (∀ u, s.keeps (l.storeBit p.1 b u p.2) (s.footLoc8 l))) ∧
  (∀ (s : State) (r : LoopReg) (d : Byte),
    let l := s.locateLoop r
    let v := l.look s
    l.readable s = true → l.writable s = true →
    ∃ t, exec (.dbnz r d) s = .next t ∧
      t = { l.store (v.1 - 1) v.2 with
        pc := if v.1 = 1#8 then s.pc else s.pc + d.signExtend 20 } ∧
      t.psw = s.psw ∧ s.keeps t (s.footLoc8 l))

/-! ## CPU control -/

/-- SEL, SEL ALT, SWRS, NOP, EI, DI (52_cpu_control R753 to R758): single PSW fields, and their encodings. That
EI and DI set HOLD is the spec's own decision D24 (log 16). -/
def Obligations.BankAndInterruptControl : Prop :=
  (∀ (o : Opcodes) (n : Fin 8) (rest : List Byte), o.free →
    decode o (0x05#8 :: BitVec.ofNat 8 (0xA8 + n.val) :: rest) = .ok (.sel n) rest ∧
    decode o (0x05#8 :: BitVec.ofNat 8 (0xB8 + n.val) :: rest) = .ok (.selAlt n) rest ∧
    decode o (0x05#8 :: 0xFC#8 :: rest) = .ok .swrs rest ∧ decode o (0x00#8 :: rest) = .ok .nop rest ∧
    decode o (0x4B#8 :: rest) = .ok .ei rest ∧ decode o (0x4A#8 :: rest) = .ok .di rest) ∧
  ∀ (s : State) (n : Fin 8),
    exec (.sel n) s = .next { s with psw := { s.psw with rss := false, rbs := BitVec.ofNat 3 n.val } } ∧
    exec (.selAlt n) s = .next { s with psw := { s.psw with rss := true, rbs := BitVec.ofNat 3 n.val } } ∧
    exec .swrs s = .next { s with psw := { s.psw with rss := !s.psw.rss } } ∧
    exec .nop s = .next s ∧
    exec .ei s = .next { s with psw := { s.psw with ie := true }, hold := true } ∧
    exec .di s = .next { s with psw := { s.psw with ie := false }, hold := true }

/-- MOV STBC, MOV WDM and LOCATION with complementary bytes (52_cpu_control R750 to R752): the byte to the
register and to the host; LOCATION moves the internal data area once, other values and later ones are
ignored; 2 to STBC sets the STOP mode. The model's choices: that other values than 0H and 0FH do not use up the one
LOCATION is decision D21 (log 34); LOCATION 0FH of a product fixed at 0H uses it up and moves nothing, the model's own
(70_reset_and_hazards R904, log 34); that the byte 2 stops the CPU, and other bytes as the host answers, is decision
D22 (R922, log 13); on a product without a watchdog timer MOV WDM is refused (U19, log 50). -/
def Obligations.GuardedControl : Prop :=  ∀ (s : State) (b : Byte),
    (∃ t, exec (.movStbc (~~~b) b) s = .next t ∧ t.stbc = b ∧ (b = 2#8 → t.stopped = true) ∧
      t = { s with stbc := b, stopped := t.stopped, io := .stbcWrite b :: s.io }) ∧
    exec (.movWdm (~~~b) b) s =
      (if s.cfg.hasWdt then .next { s with wdm := b, io := .wdmWrite b :: s.io } else .refused .noWatchdog) ∧
    (∃ t, exec (.location (~~~b) b) s = .next t ∧
      t = { s with hold := true, loc0f := t.loc0f, locDone := t.locDone } ∧
      (s.locDone = true → t.locDone = true ∧ t.loc0f = s.loc0f) ∧
      (s.locDone = false → b = 0x01#8 → t.locDone = true ∧ t.loc0f = false) ∧
      (s.locDone = false → b = 0x00#8 → t.locDone = true ∧ t.loc0f = !s.cfg.locationFixed0) ∧
      (s.locDone = false → b ≠ 0x00#8 → b ≠ 0x01#8 → t.locDone = false ∧ t.loc0f = s.loc0f))

/-- The operand error (60_exceptions R833): bytes that are not complements write nothing and take the
interrupt at 0003CH; the product says which address is saved (D28, log 31). LOCATION sets HOLD here too (52_cpu_control
R752, log 16). That the frame is two words, as R835 has
it, and not the four bytes of R833 is the model's choice (log 52). -/
def Obligations.OperandErrorTraps : Prop :=  ∀ (s : State) (a b : Byte), a ^^^ b ≠ 0xFF#8 → s.writableN (s.sp - 4) 4 = true →
    s.readableN 0x3C 2 = true →
    let t := s.acknowledge 0x3C (if s.cfg.operrSavesNext then s.pc else s.pc - 4)
    exec (.movStbc a b) s = .next t ∧ exec (.location a b) s = .next { t with hold := true } ∧
    (s.cfg.hasWdt = true → exec (.movWdm a b) s = .next t) ∧
    t.stbc = s.stbc ∧ t.wdm = s.wdm ∧ t.loc0f = s.loc0f ∧ t.locDone = s.locDone ∧ t.ispr = s.ispr

/-! ## Port check, table move, block instructions -/

/-- CHKL and CHKLA (53_chkl_string R780, R781): S, Z and parity of pin level XOR output latch, AC and CY kept;
CHKLA leaves it in A too. The value is the host's answer for that port and that history, of pins in output mode; of
a product without the instruction the pins in output mode give 0 and the others are the host's (U13, log 40). An
offset without a port register is asked of the host like any other: the model's choice (log 53). -/
def Obligations.PortCheck : Prop :=  ∀ (s : State) (o : Byte),
    let out := Config.outputPins s.io o
    let v := Config.pinDiff s.io o &&& (if s.cfg.hasChkl then out else ~~~out)
    exec (.chkl o) s = .next { s with
      io := .pinCheck o :: s.io, psw := { s.psw with s := v.msb, z := v == 0#8, pv := par8 v } } ∧
    exec (.chkla o) s = .next { s.setA v with
      io := .pinCheck o :: s.io, psw := { s.psw with s := v.msb, z := v == 0#8, pv := par8 v } }

/-- MOVTBLW (53_chkl_string R782): the words from lo8 downwards move up by one word, nothing else changes. From
lo8 = FDH the high byte of the first word goes to SFR 00H: a write of the host, or none where STBC or WDM is there,
or a deadlock where the product has no SFR there. The model's choices: a count byte of 0 is 256 words, decision D10
(log 21), which always leave the page; a run that leaves the page is refused (U20, log 23); one step for all,
decision D12 (log 24); a write that would reach STBC or WDM does nothing, decision D14 (log 12); an SFR that does
not exist is a deadlock, decision D13 (20_memory R111, log 10). -/
def Obligations.TableMove : Prop :=  ∀ (s : State) (lo c : Byte), s.Inv →
    let n := if c = 0x00#8 then 256 else c.toNat
    let moved := fun t : State =>
      (∀ j < 2 * n, 0xFE00 + lo.toNat + 3 - j < 0xFF00 →
        t.ram8 (0xFE00 + lo.toNat + 3 - j) = s.ram8 (0xFE00 + lo.toNat + 1 - j)) ∧
      s.keeps t ⟨bytesAt (s.ramAddr (0xFE00 + lo.toNat + 4 - 2 * n)) (2 * n), []⟩
    (0xFE ≤ lo.toNat ∨ lo.toNat + 2 < 2 * n → exec (.movtblw lo c) s = .refused .tableLeavesPage) ∧
    (lo.toNat ≤ 0xFC → 2 * n ≤ lo.toNat + 2 →
      ∃ t, exec (.movtblw lo c) s = .next t ∧ t = { s with ram := t.ram } ∧ moved t) ∧
    (lo = 0xFD#8 → 2 * n ≤ 0xFF →
      (s.sfrGuarded 0x00#8 = true → ∃ t, exec (.movtblw lo c) s = .next t ∧ t = { s with ram := t.ram } ∧ moved t) ∧
      (s.sfrGuarded 0x00#8 = false → s.sfrMapped 0x00#8 = true →
        ∃ t, exec (.movtblw lo c) s = .next t ∧ moved t ∧
          t = { s with ram := t.ram, io := .sfrWrite 0x00#8 1 ((s.ram8 0xFEFE).setWidth 24) :: s.io }) ∧
      (s.sfrGuarded 0x00#8 = false → s.sfrMapped 0x00#8 = false →
        exec (.movtblw lo c) s = .fault .deadlock))

/-- The bodies of the twelve block instructions (53_chkl_string R783 to R795), one pass each: `endPass` moves
the pointers, counts C and decides on another pass. That a step is one pass and the pc goes back between passes is
decision D25, the model's choice (R783, R848, log 20). The comparisons write the five flags of the difference
(R788 to R795). -/
def Obligations.BlockPass : Prop :=  ∀ (s : State) (d : Dir),
    let e := s.rg .tde
    let f := s.rg .whl
    let never := fun _ : Psw => false
    let flags := fun r : Arith 8 => { s.psw with s := r.s, z := r.z, ac := r.ac, pv := r.v, cy := r.cy }
    (s.writable e = true → exec (.movm d) s = .next ((s.store e s.a).endPass false d never)) ∧
    (s.readable e = true → s.writable e = true →
      exec (.xchm d) s = .next ((((s.look e).2.store e s.a).setA (s.look e).1).endPass false d never)) ∧
    (s.readable f = true → s.writable e = true →
      exec (.movbk d) s = .next (((s.look f).2.store e (s.look f).1).endPass true d never)) ∧
    (s.readable e = true → s.readable f = true → s.writable e = true →
      let t := s.look e
      let u := t.2.look f
      let w := u.2.store e u.1
      w.writable (w.rg .whl) = true →
        exec (.xchbk d) s = .next ((w.store (w.rg .whl) t.1).endPass true d never)) ∧
    (s.readable e = true →
      let m := s.look e
      let r := subN m.1 s.a false
      let t : State := { m.2 with psw := flags r }
      exec (.cmpme d) s = .next (t.endPass false d fun p => !p.z) ∧
      exec (.cmpmne d) s = .next (t.endPass false d fun p => p.z) ∧
      exec (.cmpmc d) s = .next (t.endPass false d fun p => !p.cy) ∧
      exec (.cmpmnc d) s = .next (t.endPass false d fun p => p.cy)) ∧
    (s.readable e = true → s.readable f = true →
      let m := s.look e
      let u := m.2.look f
      let r := subN m.1 u.1 false
      let t : State := { u.2 with psw := flags r }
      exec (.cmpbke d) s = .next (t.endPass true d fun p => !p.z) ∧
      exec (.cmpbkne d) s = .next (t.endPass true d fun p => p.z) ∧
      exec (.cmpbkc d) s = .next (t.endPass true d fun p => !p.cy) ∧
      exec (.cmpbknc d) s = .next (t.endPass true d fun p => p.cy))

/-- What ends a pass of a block instruction (53_chkl_string R783; that the pc goes back between passes is decision
D25, the model's choice, log 20): TDE, and WHL for the block forms, move
by one, C counts down, and the pc goes back to the two-byte instruction unless C is 0 or the end condition
holds; no other register or byte changes. -/
def Obligations.BlockPassEnds : Prop :=  ∀ (s : State) (block : Bool) (d : Dir) (stop : Psw → Bool), s.Inv →
    let t := s.endPass block d stop
    let move := fun l : Long => if d = .inc then l + 1 else l - 1
    t.rg .tde = move (s.rg .tde) ∧ t.rg .whl = (if block then move (s.rg .whl) else s.rg .whl) ∧
    t.r8 s.regC = s.r8 s.regC - 1 ∧
    t.pc = (if s.r8 s.regC = 1#8 ∨ stop s.psw = true then s.pc else s.pc - 2) ∧
    t = { s with pc := t.pc, ram := t.ram, vutw := t.vutw } ∧
    s.keeps t (((s.footRg .tde).and (if block then s.footRg .whl else Footprint.nothing)).and
      (s.footR8 s.regC))

/-! ## Instruction boundaries -/

/-- A non-maskable request is taken whatever IE and ISPR are, unless HOLD is set, the boundary after reset is
closed or the CPU is deadlocked: the vectored sequence with its vector, its flag added to ISPR, the host told
(60_exceptions R836, R837). A maskable request is taken at a boundary when IE = 1 and its level is above every
level in service, by vectoring or by switching to the bank its vector entry names; its level joins ISPR
(60_exceptions R837, R840, R841). The model's choices: the order of acknowledgment and the closed boundary after
reset are decision D6 (logs 14, 15), ISPR and the comparison of levels decision D19 (log 17), the bank in the low
three bits of the vector entry decision D20 (log 18), the deadlock decision D13 (log 10), that an acknowledged request
ends standby decision D22 (70_reset_and_hazards R922, 60_exceptions R852, log 13); that the host is told
before the frame is written and the vector read is the model's own (60_exceptions R838, log 54). -/
def Obligations.RequestsTaken : Prop :=
  (∀ (s : State) (b : Boundary) (bs : List Boundary), s.inputs = b :: bs → b.reset = false →
    s.hold = false → s.afterReset = false → s.deadlocked = false → s.writableN (s.sp - 4) 4 = true →
    (b.nmi = true → s.cfg.hasNmi = true → s.readableN 0x02 2 = true →
      let u : State := { s with inputs := bs, stopped := false, io := .ack 0x02 :: s.io }
      step s = .next { u.acknowledge 0x02 s.pc with ispr := { s.ispr with nmi := true } }) ∧
    ((b.nmi && s.cfg.hasNmi) = false → b.wdt = true → s.cfg.hasWdt = true → s.readableN 0x04 2 = true →
      let u : State := { s with inputs := bs, stopped := false, io := .ack 0x04 :: s.io }
      step s = .next { u.acknowledge 0x04 s.pc with ispr := { s.ispr with wdt := true } })) ∧
  (∀ (s : State) (b : Boundary) (bs : List Boundary) (r : Request), s.inputs = b :: bs →
    b.reset = false → b.nmi = false → b.wdt = false → b.macroService = none → b.request = some r →
    s.hold = false → s.afterReset = false → s.deadlocked = false → s.psw.ie = true → s.ispr.allows r.level = true →
    let vec := 0x06 + 2 * r.src.val
    let u : State := { s with inputs := bs, stopped := false, io := .ack vec :: s.io }
    (r.ctx = false → s.writableN (s.sp - 4) 4 = true → s.readableN (BitVec.ofNat 24 vec) 2 = true →
      step s = .next { u.acknowledge vec s.pc with ispr := s.ispr.add r.level }) ∧
    (r.ctx = true → s.readable (BitVec.ofNat 24 vec) = true →
      let n := u.look (BitVec.ofNat 24 vec)
      step s = .next { n.2.contextSwitch (n.1.extractLsb' 0 3) s.pc with ispr := s.ispr.add r.level }))

/-- Requests that are not acknowledged leave no trace: under HOLD or right after reset none is; a maskable one
is not while IE = 0 or a level in service is as high (60_exceptions R837, R840, R846). The model's choices: the
closed boundary after reset and the order of requests are decision D6 (logs 15, 14), the comparison of levels
decision D19 (log 17), HOLD after EI and DI decision D24 (log 16). -/
def Obligations.RequestsDeferred : Prop :=  ∀ (s : State) (b : Boundary) (bs : List Boundary), s.inputs = b :: bs → b.reset = false →
    (s.hold = true ∨ s.afterReset = true →
      step s = step { s with inputs := { Boundary.none with release := b.release } :: bs }) ∧
    (∀ r, b.request = some r → (s.psw.ie = false ∨ s.ispr.allows r.level = false) →
      step s = step { s with inputs := { b with request := none } :: bs })

/-- Macro service and standby: a macro service step changes memory and the record only; a stopped CPU does
nothing until released (60_exceptions R842, R852), and a release ends the standby condition: the step is that of the
CPU not stopped. The bytes the host names are stored in internal RAM and external memory, the last one of an address
counting; every other byte stays, ROM among them, and the step writes no SFR. The model's choices: what a macro
service step does is decision D8 (log 19), standby and its release decision D22 (log 13), the order of acknowledgment
and the closed boundary
after reset decision D6 (logs 14, 15), that a deadlocked CPU takes none decision D13 (log 10). -/
def Obligations.MacroServiceAndStandby : Prop :=
  (∀ (s : State) (b : Boundary) (bs : List Boundary), s.inputs = b :: bs → b.reset = false →
    (b.nmi || b.wdt) = false →
    (∀ ws, b.macroService = some ws → s.hold = false → s.afterReset = false → s.deadlocked = false →
      ∃ t, step s = .next t ∧
        t = { s with
          inputs := bs, stopped := s.stopped && !b.release, io := .macroService ws :: s.io,
          ram := t.ram, mem := t.mem } ∧
        s.keeps t ⟨ws.map (·.1), []⟩ ∧ (∀ a, s.plain a = false → t.peek a = s.peek a) ∧
        (s.Inv → ∀ a v pre post, ws = pre ++ (a, v) :: post → (∀ w ∈ post, w.1 ≠ a) → s.plain a = true →
          t.peek a = some v)) ∧
    (b.macroService = none → b.request = none → b.release = false → s.stopped = true →
      step s = .next { s with inputs := bs, hold := false })) ∧
  (∀ (s : State) (b : Boundary) (bs : List Boundary), s.inputs = b :: bs → b.release = true →
    step s = step { s with stopped := false, inputs := { b with release := false } :: bs })
end

