-- ==== Sys2Proof/Laws/Memory.lean ====
section
/-! SUPPORT. The canonical form of a memory: every write keeps it, and a read after a write. -/

namespace Sys2Proof.Machine

theorem Memory.above_cons (lo : Nat) (c : Host.Cell) (m : Memory) :
    Memory.above lo (c :: m) = true ↔
      lo ≤ c.1 ∧ c.2 ≠ Memory.blank ∧ Memory.above (c.1 + 1) m = true := by
  simp [Memory.above, and_assoc]

theorem Memory.above_mono {lo hi : Nat} {m : Memory} (h : Memory.above hi m = true) (hl : lo ≤ hi) :
    Memory.above lo m = true := by
  cases m with
  | nil => rfl
  | cons c m =>
    rw [Memory.above_cons] at h ⊢
    exact ⟨Nat.le_trans hl h.1, h.2⟩

/-- Below the lower bound a memory reads blank. -/
theorem Memory.read_below {lo a : Nat} {m : Memory} (h : Memory.above lo m = true) (ha : a < lo) :
    Memory.read m a = Memory.blank := by
  induction m generalizing lo with
  | nil => rfl
  | cons c m ih =>
    rw [Memory.above_cons] at h
    have hne : c.1 ≠ a := by omega
    simp only [Memory.read, hne, if_false]
    exact ih h.2.2 (by omega)

/-- A write at or above the bound keeps the entries above it, rising and not blank. -/
theorem Memory.above_write {lo a : Nat} {m : Memory} (v : Byte) (h : Memory.above lo m = true)
    (ha : lo ≤ a) : Memory.above lo (Memory.write m a v) = true := by
  induction m generalizing lo with
  | nil => by_cases hv : v = Memory.blank <;> simp [Memory.write, Memory.above, hv, ha]
  | cons c m ih =>
    rw [Memory.above_cons] at h
    obtain ⟨h1, h2, h3⟩ := h
    rcases Nat.lt_trichotomy c.1 a with hlt | heq | hgt
    · simp only [Memory.write, hlt, if_true, Memory.above_cons]
      exact ⟨h1, h2, ih h3 hlt⟩
    · have hn : ¬c.1 < a := by omega
      by_cases hv : v = Memory.blank
      · simp only [Memory.write, heq, hv, if_true, Nat.lt_irrefl, if_false]
        exact Memory.above_mono h3 (by omega)
      · simp only [Memory.write, heq, hv, if_true, if_false, Nat.lt_irrefl, Memory.above_cons]
        exact ⟨ha, hv, heq ▸ h3⟩
    · have hn : ¬c.1 < a := by omega
      have hne : ¬c.1 = a := by omega
      by_cases hv : v = Memory.blank
      · simp only [Memory.write, hn, hne, hv, if_true, if_false, Memory.above_cons]
        exact ⟨h1, h2, h3⟩
      · simp only [Memory.write, hn, hne, hv, if_false, Memory.above_cons]
        exact ⟨ha, hv, hgt, h2, h3⟩

/-- Every write keeps the canonical form. -/
theorem Memory.wf_write {m : Memory} (a : Nat) (v : Byte) (h : Memory.wf m = true) :
    Memory.wf (Memory.write m a v) = true := Memory.above_write v h (Nat.zero_le a)

theorem Memory.read_write_above {lo : Nat} {m : Memory} (a b : Nat) (v : Byte)
    (h : Memory.above lo m = true) :
    Memory.read (Memory.write m a v) b = if b = a then v else Memory.read m b := by
  induction m generalizing lo with
  | nil =>
    by_cases hv : v = Memory.blank
    · subst hv; simp [Memory.write, Memory.read]
    · by_cases hb : b = a
      · subst hb; simp [Memory.write, Memory.read, hv]
      · simp [Memory.write, Memory.read, hv, hb, Ne.symm hb]
  | cons c m ih =>
    rw [Memory.above_cons] at h
    obtain ⟨h1, h2, h3⟩ := h
    rcases Nat.lt_trichotomy c.1 a with hlt | heq | hgt
    · simp only [Memory.write, hlt, if_true, Memory.read, ih h3]
      by_cases hc : c.1 = b
      · have hne : b ≠ a := by omega
        simp [hc, hne]
      · simp [hc]
    · have hn : ¬c.1 < a := by omega
      by_cases hv : v = Memory.blank
      · simp only [Memory.write, heq, hv, if_true, if_false, Nat.lt_irrefl, Memory.read]
        by_cases hb : b = a
        · subst hb
          simp [Memory.read_below h3 (by omega : b < c.1 + 1)]
        · simp [hb, Ne.symm hb]
      · simp only [Memory.write, heq, hv, if_true, if_false, Nat.lt_irrefl, Memory.read]
        by_cases hb : b = a
        · simp [hb]
        · simp [hb, Ne.symm hb]
    · have hn : ¬c.1 < a := by omega
      have hne : ¬c.1 = a := by omega
      by_cases hv : v = Memory.blank
      · simp only [Memory.write, hn, hne, hv, if_true, if_false]
        by_cases hb : b = a
        · subst hb
          simp only [Memory.read, hne, if_false, if_true]
          exact Memory.read_below h3 (by omega)
        · simp [hb]
      · simp only [Memory.write, hn, hne, hv, if_false, Memory.read]
        by_cases hb : b = a
        · simp [hb]
        · simp [hb, Ne.symm hb]

/-- A read after a write: the byte written at its address, the old byte everywhere else. -/
theorem Memory.read_write {m : Memory} (a b : Nat) (v : Byte) (h : Memory.wf m = true) :
    Memory.read (Memory.write m a v) b = if b = a then v else Memory.read m b :=
  Memory.read_write_above a b v h

theorem Memory.read_write_same {m : Memory} (a : Nat) (v : Byte) (h : Memory.wf m = true) :
    Memory.read (Memory.write m a v) a = v := by simp [Memory.read_write a a v h]

/-- A write leaves every other address alone, whatever the form of the memory. -/
theorem Memory.read_write_other {m : Memory} {a b : Nat} (v : Byte) (hb : b ≠ a) :
    Memory.read (Memory.write m a v) b = Memory.read m b := by
  have hb' : a ≠ b := hb.symm
  induction m with
  | nil => by_cases hv : v = Memory.blank <;> simp [Memory.write, Memory.read, hv, hb']
  | cons c m ih =>
    simp only [Memory.write]
    split
    · simp only [Memory.read, ih]
    · split
      · next h => split <;> simp [Memory.read, h, hb']
      · split <;> simp [Memory.read, hb']

/-- The addresses listed after a write are the old ones and the address written. -/
theorem Memory.mem_write {m : Memory} {a : Nat} {v : Byte} {c : Host.Cell}
    (h : c ∈ Memory.write m a v) : c ∈ m ∨ c.1 = a := by
  induction m with
  | nil =>
    by_cases hv : v = Memory.blank <;> simp [Memory.write, hv] at h
    exact Or.inr (by rw [h])
  | cons d m ih =>
    simp only [Memory.write] at h
    split at h
    · rcases List.mem_cons.mp h with h | h
      · exact Or.inl (List.mem_cons.mpr (Or.inl h))
      · exact (ih h).imp (fun x => List.mem_cons.mpr (Or.inr x)) id
    · split at h <;> split at h
      · exact Or.inl (List.mem_cons.mpr (Or.inr h))
      · rcases List.mem_cons.mp h with h | h
        · exact Or.inr (by rw [h])
        · exact Or.inl (List.mem_cons.mpr (Or.inr h))
      · exact Or.inl h
      · rcases List.mem_cons.mp h with h | h
        · exact Or.inr (by rw [h])
        · exact Or.inl h

end Sys2Proof.Machine
end

