-- ==== Sys2Proof/Laws/State.lean ====
section
/-! SUPPORT. What each update of the state leaves alone, one lemma per field per update, all by `rfl`, and
the values the plain updates write. -/

namespace Sys2Proof.Machine

variable (s : State)

@[simp] theorem State.setRam8_pc (k : Nat) (v : Byte) : (s.setRam8 k v).pc = s.pc := rfl
@[simp] theorem State.setRam8_psw (k : Nat) (v : Byte) : (s.setRam8 k v).psw = s.psw := rfl
@[simp] theorem State.setRam8_sp (k : Nat) (v : Byte) : (s.setRam8 k v).sp = s.sp := rfl
@[simp] theorem State.setRam8_vutw (k : Nat) (v : Byte) : (s.setRam8 k v).vutw = s.vutw := rfl
@[simp] theorem State.setRam8_mem (k : Nat) (v : Byte) : (s.setRam8 k v).mem = s.mem := rfl
@[simp] theorem State.setRam8_stbc (k : Nat) (v : Byte) : (s.setRam8 k v).stbc = s.stbc := rfl
@[simp] theorem State.setRam8_wdm (k : Nat) (v : Byte) : (s.setRam8 k v).wdm = s.wdm := rfl
@[simp] theorem State.setRam8_loc0f (k : Nat) (v : Byte) : (s.setRam8 k v).loc0f = s.loc0f := rfl
@[simp] theorem State.setRam8_locDone (k : Nat) (v : Byte) : (s.setRam8 k v).locDone = s.locDone := rfl
@[simp] theorem State.setRam8_ispr (k : Nat) (v : Byte) : (s.setRam8 k v).ispr = s.ispr := rfl
@[simp] theorem State.setRam8_hold (k : Nat) (v : Byte) : (s.setRam8 k v).hold = s.hold := rfl
@[simp] theorem State.setRam8_stopped (k : Nat) (v : Byte) : (s.setRam8 k v).stopped = s.stopped := rfl
@[simp] theorem State.setRam8_deadlocked (k : Nat) (v : Byte) : (s.setRam8 k v).deadlocked = s.deadlocked := rfl
@[simp] theorem State.setRam8_afterReset (k : Nat) (v : Byte) : (s.setRam8 k v).afterReset = s.afterReset := rfl
@[simp] theorem State.setRam8_inputs (k : Nat) (v : Byte) : (s.setRam8 k v).inputs = s.inputs := rfl
@[simp] theorem State.setRam8_io (k : Nat) (v : Byte) : (s.setRam8 k v).io = s.io := rfl
@[simp] theorem State.setRam8_draws (k : Nat) (v : Byte) : (s.setRam8 k v).draws = s.draws := rfl
@[simp] theorem State.setRam8_cfg (k : Nat) (v : Byte) : (s.setRam8 k v).cfg = s.cfg := rfl

@[simp] theorem State.setRam16_pc (k : Nat) (w : Word) : (s.setRam16 k w).pc = s.pc := rfl
@[simp] theorem State.setRam16_psw (k : Nat) (w : Word) : (s.setRam16 k w).psw = s.psw := rfl
@[simp] theorem State.setRam16_sp (k : Nat) (w : Word) : (s.setRam16 k w).sp = s.sp := rfl
@[simp] theorem State.setRam16_vutw (k : Nat) (w : Word) : (s.setRam16 k w).vutw = s.vutw := rfl
@[simp] theorem State.setRam16_mem (k : Nat) (w : Word) : (s.setRam16 k w).mem = s.mem := rfl
@[simp] theorem State.setRam16_stbc (k : Nat) (w : Word) : (s.setRam16 k w).stbc = s.stbc := rfl
@[simp] theorem State.setRam16_wdm (k : Nat) (w : Word) : (s.setRam16 k w).wdm = s.wdm := rfl
@[simp] theorem State.setRam16_loc0f (k : Nat) (w : Word) : (s.setRam16 k w).loc0f = s.loc0f := rfl
@[simp] theorem State.setRam16_locDone (k : Nat) (w : Word) : (s.setRam16 k w).locDone = s.locDone := rfl
@[simp] theorem State.setRam16_ispr (k : Nat) (w : Word) : (s.setRam16 k w).ispr = s.ispr := rfl
@[simp] theorem State.setRam16_hold (k : Nat) (w : Word) : (s.setRam16 k w).hold = s.hold := rfl
@[simp] theorem State.setRam16_stopped (k : Nat) (w : Word) : (s.setRam16 k w).stopped = s.stopped := rfl
@[simp] theorem State.setRam16_deadlocked (k : Nat) (w : Word) : (s.setRam16 k w).deadlocked = s.deadlocked := rfl
@[simp] theorem State.setRam16_afterReset (k : Nat) (w : Word) : (s.setRam16 k w).afterReset = s.afterReset := rfl
@[simp] theorem State.setRam16_inputs (k : Nat) (w : Word) : (s.setRam16 k w).inputs = s.inputs := rfl
@[simp] theorem State.setRam16_io (k : Nat) (w : Word) : (s.setRam16 k w).io = s.io := rfl
@[simp] theorem State.setRam16_draws (k : Nat) (w : Word) : (s.setRam16 k w).draws = s.draws := rfl
@[simp] theorem State.setRam16_cfg (k : Nat) (w : Word) : (s.setRam16 k w).cfg = s.cfg := rfl

@[simp] theorem State.setR8_pc (n : R8) (v : Byte) : (s.setR8 n v).pc = s.pc := rfl
@[simp] theorem State.setR8_psw (n : R8) (v : Byte) : (s.setR8 n v).psw = s.psw := rfl
@[simp] theorem State.setR8_sp (n : R8) (v : Byte) : (s.setR8 n v).sp = s.sp := rfl
@[simp] theorem State.setR8_vutw (n : R8) (v : Byte) : (s.setR8 n v).vutw = s.vutw := rfl
@[simp] theorem State.setR8_mem (n : R8) (v : Byte) : (s.setR8 n v).mem = s.mem := rfl
@[simp] theorem State.setR8_stbc (n : R8) (v : Byte) : (s.setR8 n v).stbc = s.stbc := rfl
@[simp] theorem State.setR8_wdm (n : R8) (v : Byte) : (s.setR8 n v).wdm = s.wdm := rfl
@[simp] theorem State.setR8_loc0f (n : R8) (v : Byte) : (s.setR8 n v).loc0f = s.loc0f := rfl
@[simp] theorem State.setR8_locDone (n : R8) (v : Byte) : (s.setR8 n v).locDone = s.locDone := rfl
@[simp] theorem State.setR8_ispr (n : R8) (v : Byte) : (s.setR8 n v).ispr = s.ispr := rfl
@[simp] theorem State.setR8_hold (n : R8) (v : Byte) : (s.setR8 n v).hold = s.hold := rfl
@[simp] theorem State.setR8_stopped (n : R8) (v : Byte) : (s.setR8 n v).stopped = s.stopped := rfl
@[simp] theorem State.setR8_deadlocked (n : R8) (v : Byte) : (s.setR8 n v).deadlocked = s.deadlocked := rfl
@[simp] theorem State.setR8_afterReset (n : R8) (v : Byte) : (s.setR8 n v).afterReset = s.afterReset := rfl
@[simp] theorem State.setR8_inputs (n : R8) (v : Byte) : (s.setR8 n v).inputs = s.inputs := rfl
@[simp] theorem State.setR8_io (n : R8) (v : Byte) : (s.setR8 n v).io = s.io := rfl
@[simp] theorem State.setR8_draws (n : R8) (v : Byte) : (s.setR8 n v).draws = s.draws := rfl
@[simp] theorem State.setR8_cfg (n : R8) (v : Byte) : (s.setR8 n v).cfg = s.cfg := rfl

@[simp] theorem State.setRpOf_pc (b : BitVec 3) (n : RP) (w : Word) : (s.setRpOf b n w).pc = s.pc := rfl
@[simp] theorem State.setRpOf_psw (b : BitVec 3) (n : RP) (w : Word) : (s.setRpOf b n w).psw = s.psw := rfl
@[simp] theorem State.setRpOf_sp (b : BitVec 3) (n : RP) (w : Word) : (s.setRpOf b n w).sp = s.sp := rfl
@[simp] theorem State.setRpOf_vutw (b : BitVec 3) (n : RP) (w : Word) : (s.setRpOf b n w).vutw = s.vutw := rfl
@[simp] theorem State.setRpOf_mem (b : BitVec 3) (n : RP) (w : Word) : (s.setRpOf b n w).mem = s.mem := rfl
@[simp] theorem State.setRpOf_stbc (b : BitVec 3) (n : RP) (w : Word) : (s.setRpOf b n w).stbc = s.stbc := rfl
@[simp] theorem State.setRpOf_wdm (b : BitVec 3) (n : RP) (w : Word) : (s.setRpOf b n w).wdm = s.wdm := rfl
@[simp] theorem State.setRpOf_loc0f (b : BitVec 3) (n : RP) (w : Word) : (s.setRpOf b n w).loc0f = s.loc0f := rfl
@[simp] theorem State.setRpOf_locDone (b : BitVec 3) (n : RP) (w : Word) : (s.setRpOf b n w).locDone = s.locDone := rfl
@[simp] theorem State.setRpOf_ispr (b : BitVec 3) (n : RP) (w : Word) : (s.setRpOf b n w).ispr = s.ispr := rfl
@[simp] theorem State.setRpOf_hold (b : BitVec 3) (n : RP) (w : Word) : (s.setRpOf b n w).hold = s.hold := rfl
@[simp] theorem State.setRpOf_stopped (b : BitVec 3) (n : RP) (w : Word) : (s.setRpOf b n w).stopped = s.stopped := rfl
@[simp] theorem State.setRpOf_deadlocked (b : BitVec 3) (n : RP) (w : Word) : (s.setRpOf b n w).deadlocked = s.deadlocked := rfl
@[simp] theorem State.setRpOf_afterReset (b : BitVec 3) (n : RP) (w : Word) : (s.setRpOf b n w).afterReset = s.afterReset := rfl
@[simp] theorem State.setRpOf_inputs (b : BitVec 3) (n : RP) (w : Word) : (s.setRpOf b n w).inputs = s.inputs := rfl
@[simp] theorem State.setRpOf_io (b : BitVec 3) (n : RP) (w : Word) : (s.setRpOf b n w).io = s.io := rfl
@[simp] theorem State.setRpOf_draws (b : BitVec 3) (n : RP) (w : Word) : (s.setRpOf b n w).draws = s.draws := rfl
@[simp] theorem State.setRpOf_cfg (b : BitVec 3) (n : RP) (w : Word) : (s.setRpOf b n w).cfg = s.cfg := rfl

@[simp] theorem State.setRp_pc (n : RP) (w : Word) : (s.setRp n w).pc = s.pc := rfl
@[simp] theorem State.setRp_psw (n : RP) (w : Word) : (s.setRp n w).psw = s.psw := rfl
@[simp] theorem State.setRp_sp (n : RP) (w : Word) : (s.setRp n w).sp = s.sp := rfl
@[simp] theorem State.setRp_vutw (n : RP) (w : Word) : (s.setRp n w).vutw = s.vutw := rfl
@[simp] theorem State.setRp_mem (n : RP) (w : Word) : (s.setRp n w).mem = s.mem := rfl
@[simp] theorem State.setRp_stbc (n : RP) (w : Word) : (s.setRp n w).stbc = s.stbc := rfl
@[simp] theorem State.setRp_wdm (n : RP) (w : Word) : (s.setRp n w).wdm = s.wdm := rfl
@[simp] theorem State.setRp_loc0f (n : RP) (w : Word) : (s.setRp n w).loc0f = s.loc0f := rfl
@[simp] theorem State.setRp_locDone (n : RP) (w : Word) : (s.setRp n w).locDone = s.locDone := rfl
@[simp] theorem State.setRp_ispr (n : RP) (w : Word) : (s.setRp n w).ispr = s.ispr := rfl
@[simp] theorem State.setRp_hold (n : RP) (w : Word) : (s.setRp n w).hold = s.hold := rfl
@[simp] theorem State.setRp_stopped (n : RP) (w : Word) : (s.setRp n w).stopped = s.stopped := rfl
@[simp] theorem State.setRp_deadlocked (n : RP) (w : Word) : (s.setRp n w).deadlocked = s.deadlocked := rfl
@[simp] theorem State.setRp_afterReset (n : RP) (w : Word) : (s.setRp n w).afterReset = s.afterReset := rfl
@[simp] theorem State.setRp_inputs (n : RP) (w : Word) : (s.setRp n w).inputs = s.inputs := rfl
@[simp] theorem State.setRp_io (n : RP) (w : Word) : (s.setRp n w).io = s.io := rfl
@[simp] theorem State.setRp_draws (n : RP) (w : Word) : (s.setRp n w).draws = s.draws := rfl
@[simp] theorem State.setRp_cfg (n : RP) (w : Word) : (s.setRp n w).cfg = s.cfg := rfl

@[simp] theorem State.setExt_pc (e : R3) (v : Byte) : (s.setExt e v).pc = s.pc := rfl
@[simp] theorem State.setExt_psw (e : R3) (v : Byte) : (s.setExt e v).psw = s.psw := rfl
@[simp] theorem State.setExt_sp (e : R3) (v : Byte) : (s.setExt e v).sp = s.sp := rfl
@[simp] theorem State.setExt_ram (e : R3) (v : Byte) : (s.setExt e v).ram = s.ram := rfl
@[simp] theorem State.setExt_mem (e : R3) (v : Byte) : (s.setExt e v).mem = s.mem := rfl
@[simp] theorem State.setExt_stbc (e : R3) (v : Byte) : (s.setExt e v).stbc = s.stbc := rfl
@[simp] theorem State.setExt_wdm (e : R3) (v : Byte) : (s.setExt e v).wdm = s.wdm := rfl
@[simp] theorem State.setExt_loc0f (e : R3) (v : Byte) : (s.setExt e v).loc0f = s.loc0f := rfl
@[simp] theorem State.setExt_locDone (e : R3) (v : Byte) : (s.setExt e v).locDone = s.locDone := rfl
@[simp] theorem State.setExt_ispr (e : R3) (v : Byte) : (s.setExt e v).ispr = s.ispr := rfl
@[simp] theorem State.setExt_hold (e : R3) (v : Byte) : (s.setExt e v).hold = s.hold := rfl
@[simp] theorem State.setExt_stopped (e : R3) (v : Byte) : (s.setExt e v).stopped = s.stopped := rfl
@[simp] theorem State.setExt_deadlocked (e : R3) (v : Byte) : (s.setExt e v).deadlocked = s.deadlocked := rfl
@[simp] theorem State.setExt_afterReset (e : R3) (v : Byte) : (s.setExt e v).afterReset = s.afterReset := rfl
@[simp] theorem State.setExt_inputs (e : R3) (v : Byte) : (s.setExt e v).inputs = s.inputs := rfl
@[simp] theorem State.setExt_io (e : R3) (v : Byte) : (s.setExt e v).io = s.io := rfl
@[simp] theorem State.setExt_draws (e : R3) (v : Byte) : (s.setExt e v).draws = s.draws := rfl
@[simp] theorem State.setExt_cfg (e : R3) (v : Byte) : (s.setExt e v).cfg = s.cfg := rfl

@[simp] theorem State.setRg_pc (g : RG) (l : Long) : (s.setRg g l).pc = s.pc := rfl
@[simp] theorem State.setRg_psw (g : RG) (l : Long) : (s.setRg g l).psw = s.psw := rfl
@[simp] theorem State.setRg_sp (g : RG) (l : Long) : (s.setRg g l).sp = s.sp := rfl
@[simp] theorem State.setRg_mem (g : RG) (l : Long) : (s.setRg g l).mem = s.mem := rfl
@[simp] theorem State.setRg_stbc (g : RG) (l : Long) : (s.setRg g l).stbc = s.stbc := rfl
@[simp] theorem State.setRg_wdm (g : RG) (l : Long) : (s.setRg g l).wdm = s.wdm := rfl
@[simp] theorem State.setRg_loc0f (g : RG) (l : Long) : (s.setRg g l).loc0f = s.loc0f := rfl
@[simp] theorem State.setRg_locDone (g : RG) (l : Long) : (s.setRg g l).locDone = s.locDone := rfl
@[simp] theorem State.setRg_ispr (g : RG) (l : Long) : (s.setRg g l).ispr = s.ispr := rfl
@[simp] theorem State.setRg_hold (g : RG) (l : Long) : (s.setRg g l).hold = s.hold := rfl
@[simp] theorem State.setRg_stopped (g : RG) (l : Long) : (s.setRg g l).stopped = s.stopped := rfl
@[simp] theorem State.setRg_deadlocked (g : RG) (l : Long) : (s.setRg g l).deadlocked = s.deadlocked := rfl
@[simp] theorem State.setRg_afterReset (g : RG) (l : Long) : (s.setRg g l).afterReset = s.afterReset := rfl
@[simp] theorem State.setRg_inputs (g : RG) (l : Long) : (s.setRg g l).inputs = s.inputs := rfl
@[simp] theorem State.setRg_io (g : RG) (l : Long) : (s.setRg g l).io = s.io := rfl
@[simp] theorem State.setRg_draws (g : RG) (l : Long) : (s.setRg g l).draws = s.draws := rfl
@[simp] theorem State.setRg_cfg (g : RG) (l : Long) : (s.setRg g l).cfg = s.cfg := rfl

@[simp] theorem State.setA_pc (v : Byte) : (s.setA v).pc = s.pc := rfl
@[simp] theorem State.setA_psw (v : Byte) : (s.setA v).psw = s.psw := rfl
@[simp] theorem State.setA_sp (v : Byte) : (s.setA v).sp = s.sp := rfl
@[simp] theorem State.setA_vutw (v : Byte) : (s.setA v).vutw = s.vutw := rfl
@[simp] theorem State.setA_mem (v : Byte) : (s.setA v).mem = s.mem := rfl
@[simp] theorem State.setA_stbc (v : Byte) : (s.setA v).stbc = s.stbc := rfl
@[simp] theorem State.setA_wdm (v : Byte) : (s.setA v).wdm = s.wdm := rfl
@[simp] theorem State.setA_loc0f (v : Byte) : (s.setA v).loc0f = s.loc0f := rfl
@[simp] theorem State.setA_locDone (v : Byte) : (s.setA v).locDone = s.locDone := rfl
@[simp] theorem State.setA_ispr (v : Byte) : (s.setA v).ispr = s.ispr := rfl
@[simp] theorem State.setA_hold (v : Byte) : (s.setA v).hold = s.hold := rfl
@[simp] theorem State.setA_stopped (v : Byte) : (s.setA v).stopped = s.stopped := rfl
@[simp] theorem State.setA_deadlocked (v : Byte) : (s.setA v).deadlocked = s.deadlocked := rfl
@[simp] theorem State.setA_afterReset (v : Byte) : (s.setA v).afterReset = s.afterReset := rfl
@[simp] theorem State.setA_inputs (v : Byte) : (s.setA v).inputs = s.inputs := rfl
@[simp] theorem State.setA_io (v : Byte) : (s.setA v).io = s.io := rfl
@[simp] theorem State.setA_draws (v : Byte) : (s.setA v).draws = s.draws := rfl
@[simp] theorem State.setA_cfg (v : Byte) : (s.setA v).cfg = s.cfg := rfl

@[simp] theorem State.setAx_pc (w : Word) : (s.setAx w).pc = s.pc := rfl
@[simp] theorem State.setAx_psw (w : Word) : (s.setAx w).psw = s.psw := rfl
@[simp] theorem State.setAx_sp (w : Word) : (s.setAx w).sp = s.sp := rfl
@[simp] theorem State.setAx_vutw (w : Word) : (s.setAx w).vutw = s.vutw := rfl
@[simp] theorem State.setAx_mem (w : Word) : (s.setAx w).mem = s.mem := rfl
@[simp] theorem State.setAx_stbc (w : Word) : (s.setAx w).stbc = s.stbc := rfl
@[simp] theorem State.setAx_wdm (w : Word) : (s.setAx w).wdm = s.wdm := rfl
@[simp] theorem State.setAx_loc0f (w : Word) : (s.setAx w).loc0f = s.loc0f := rfl
@[simp] theorem State.setAx_locDone (w : Word) : (s.setAx w).locDone = s.locDone := rfl
@[simp] theorem State.setAx_ispr (w : Word) : (s.setAx w).ispr = s.ispr := rfl
@[simp] theorem State.setAx_hold (w : Word) : (s.setAx w).hold = s.hold := rfl
@[simp] theorem State.setAx_stopped (w : Word) : (s.setAx w).stopped = s.stopped := rfl
@[simp] theorem State.setAx_deadlocked (w : Word) : (s.setAx w).deadlocked = s.deadlocked := rfl
@[simp] theorem State.setAx_afterReset (w : Word) : (s.setAx w).afterReset = s.afterReset := rfl
@[simp] theorem State.setAx_inputs (w : Word) : (s.setAx w).inputs = s.inputs := rfl
@[simp] theorem State.setAx_io (w : Word) : (s.setAx w).io = s.io := rfl
@[simp] theorem State.setAx_draws (w : Word) : (s.setAx w).draws = s.draws := rfl
@[simp] theorem State.setAx_cfg (w : Word) : (s.setAx w).cfg = s.cfg := rfl

@[simp] theorem State.setAxde_pc (v : BitVec 32) : (s.setAxde v).pc = s.pc := rfl
@[simp] theorem State.setAxde_psw (v : BitVec 32) : (s.setAxde v).psw = s.psw := rfl
@[simp] theorem State.setAxde_sp (v : BitVec 32) : (s.setAxde v).sp = s.sp := rfl
@[simp] theorem State.setAxde_vutw (v : BitVec 32) : (s.setAxde v).vutw = s.vutw := rfl
@[simp] theorem State.setAxde_mem (v : BitVec 32) : (s.setAxde v).mem = s.mem := rfl
@[simp] theorem State.setAxde_stbc (v : BitVec 32) : (s.setAxde v).stbc = s.stbc := rfl
@[simp] theorem State.setAxde_wdm (v : BitVec 32) : (s.setAxde v).wdm = s.wdm := rfl
@[simp] theorem State.setAxde_loc0f (v : BitVec 32) : (s.setAxde v).loc0f = s.loc0f := rfl
@[simp] theorem State.setAxde_locDone (v : BitVec 32) : (s.setAxde v).locDone = s.locDone := rfl
@[simp] theorem State.setAxde_ispr (v : BitVec 32) : (s.setAxde v).ispr = s.ispr := rfl
@[simp] theorem State.setAxde_hold (v : BitVec 32) : (s.setAxde v).hold = s.hold := rfl
@[simp] theorem State.setAxde_stopped (v : BitVec 32) : (s.setAxde v).stopped = s.stopped := rfl
@[simp] theorem State.setAxde_deadlocked (v : BitVec 32) : (s.setAxde v).deadlocked = s.deadlocked := rfl
@[simp] theorem State.setAxde_afterReset (v : BitVec 32) : (s.setAxde v).afterReset = s.afterReset := rfl
@[simp] theorem State.setAxde_inputs (v : BitVec 32) : (s.setAxde v).inputs = s.inputs := rfl
@[simp] theorem State.setAxde_io (v : BitVec 32) : (s.setAxde v).io = s.io := rfl
@[simp] theorem State.setAxde_draws (v : BitVec 32) : (s.setAxde v).draws = s.draws := rfl
@[simp] theorem State.setAxde_cfg (v : BitVec 32) : (s.setAxde v).cfg = s.cfg := rfl

@[simp] theorem State.setSp_pc (v : Long) : (s.setSp v).pc = s.pc := rfl
@[simp] theorem State.setSp_psw (v : Long) : (s.setSp v).psw = s.psw := rfl
@[simp] theorem State.setSp_vutw (v : Long) : (s.setSp v).vutw = s.vutw := rfl
@[simp] theorem State.setSp_ram (v : Long) : (s.setSp v).ram = s.ram := rfl
@[simp] theorem State.setSp_mem (v : Long) : (s.setSp v).mem = s.mem := rfl
@[simp] theorem State.setSp_stbc (v : Long) : (s.setSp v).stbc = s.stbc := rfl
@[simp] theorem State.setSp_wdm (v : Long) : (s.setSp v).wdm = s.wdm := rfl
@[simp] theorem State.setSp_loc0f (v : Long) : (s.setSp v).loc0f = s.loc0f := rfl
@[simp] theorem State.setSp_locDone (v : Long) : (s.setSp v).locDone = s.locDone := rfl
@[simp] theorem State.setSp_ispr (v : Long) : (s.setSp v).ispr = s.ispr := rfl
@[simp] theorem State.setSp_hold (v : Long) : (s.setSp v).hold = s.hold := rfl
@[simp] theorem State.setSp_stopped (v : Long) : (s.setSp v).stopped = s.stopped := rfl
@[simp] theorem State.setSp_deadlocked (v : Long) : (s.setSp v).deadlocked = s.deadlocked := rfl
@[simp] theorem State.setSp_afterReset (v : Long) : (s.setSp v).afterReset = s.afterReset := rfl
@[simp] theorem State.setSp_inputs (v : Long) : (s.setSp v).inputs = s.inputs := rfl
@[simp] theorem State.setSp_io (v : Long) : (s.setSp v).io = s.io := rfl
@[simp] theorem State.setSp_draws (v : Long) : (s.setSp v).draws = s.draws := rfl
@[simp] theorem State.setSp_cfg (v : Long) : (s.setSp v).cfg = s.cfg := rfl

@[simp] theorem State.tell_pc (e : IoEvent) : (s.tell e).pc = s.pc := rfl
@[simp] theorem State.tell_psw (e : IoEvent) : (s.tell e).psw = s.psw := rfl
@[simp] theorem State.tell_sp (e : IoEvent) : (s.tell e).sp = s.sp := rfl
@[simp] theorem State.tell_vutw (e : IoEvent) : (s.tell e).vutw = s.vutw := rfl
@[simp] theorem State.tell_ram (e : IoEvent) : (s.tell e).ram = s.ram := rfl
@[simp] theorem State.tell_mem (e : IoEvent) : (s.tell e).mem = s.mem := rfl
@[simp] theorem State.tell_stbc (e : IoEvent) : (s.tell e).stbc = s.stbc := rfl
@[simp] theorem State.tell_wdm (e : IoEvent) : (s.tell e).wdm = s.wdm := rfl
@[simp] theorem State.tell_loc0f (e : IoEvent) : (s.tell e).loc0f = s.loc0f := rfl
@[simp] theorem State.tell_locDone (e : IoEvent) : (s.tell e).locDone = s.locDone := rfl
@[simp] theorem State.tell_ispr (e : IoEvent) : (s.tell e).ispr = s.ispr := rfl
@[simp] theorem State.tell_hold (e : IoEvent) : (s.tell e).hold = s.hold := rfl
@[simp] theorem State.tell_stopped (e : IoEvent) : (s.tell e).stopped = s.stopped := rfl
@[simp] theorem State.tell_deadlocked (e : IoEvent) : (s.tell e).deadlocked = s.deadlocked := rfl
@[simp] theorem State.tell_afterReset (e : IoEvent) : (s.tell e).afterReset = s.afterReset := rfl
@[simp] theorem State.tell_inputs (e : IoEvent) : (s.tell e).inputs = s.inputs := rfl
@[simp] theorem State.tell_draws (e : IoEvent) : (s.tell e).draws = s.draws := rfl
@[simp] theorem State.tell_cfg (e : IoEvent) : (s.tell e).cfg = s.cfg := rfl

@[simp] theorem State.setCy_pc (v : Bool) : (s.setCy v).pc = s.pc := rfl
@[simp] theorem State.setCy_sp (v : Bool) : (s.setCy v).sp = s.sp := rfl
@[simp] theorem State.setCy_vutw (v : Bool) : (s.setCy v).vutw = s.vutw := rfl
@[simp] theorem State.setCy_ram (v : Bool) : (s.setCy v).ram = s.ram := rfl
@[simp] theorem State.setCy_mem (v : Bool) : (s.setCy v).mem = s.mem := rfl
@[simp] theorem State.setCy_stbc (v : Bool) : (s.setCy v).stbc = s.stbc := rfl
@[simp] theorem State.setCy_wdm (v : Bool) : (s.setCy v).wdm = s.wdm := rfl
@[simp] theorem State.setCy_loc0f (v : Bool) : (s.setCy v).loc0f = s.loc0f := rfl
@[simp] theorem State.setCy_locDone (v : Bool) : (s.setCy v).locDone = s.locDone := rfl
@[simp] theorem State.setCy_ispr (v : Bool) : (s.setCy v).ispr = s.ispr := rfl
@[simp] theorem State.setCy_hold (v : Bool) : (s.setCy v).hold = s.hold := rfl
@[simp] theorem State.setCy_stopped (v : Bool) : (s.setCy v).stopped = s.stopped := rfl
@[simp] theorem State.setCy_deadlocked (v : Bool) : (s.setCy v).deadlocked = s.deadlocked := rfl
@[simp] theorem State.setCy_afterReset (v : Bool) : (s.setCy v).afterReset = s.afterReset := rfl
@[simp] theorem State.setCy_inputs (v : Bool) : (s.setCy v).inputs = s.inputs := rfl
@[simp] theorem State.setCy_io (v : Bool) : (s.setCy v).io = s.io := rfl
@[simp] theorem State.setCy_draws (v : Bool) : (s.setCy v).draws = s.draws := rfl
@[simp] theorem State.setCy_cfg (v : Bool) : (s.setCy v).cfg = s.cfg := rfl

@[simp] theorem State.held_pc : (s.held).pc = s.pc := rfl
@[simp] theorem State.held_psw : (s.held).psw = s.psw := rfl
@[simp] theorem State.held_sp : (s.held).sp = s.sp := rfl
@[simp] theorem State.held_vutw : (s.held).vutw = s.vutw := rfl
@[simp] theorem State.held_ram : (s.held).ram = s.ram := rfl
@[simp] theorem State.held_mem : (s.held).mem = s.mem := rfl
@[simp] theorem State.held_stbc : (s.held).stbc = s.stbc := rfl
@[simp] theorem State.held_wdm : (s.held).wdm = s.wdm := rfl
@[simp] theorem State.held_loc0f : (s.held).loc0f = s.loc0f := rfl
@[simp] theorem State.held_locDone : (s.held).locDone = s.locDone := rfl
@[simp] theorem State.held_ispr : (s.held).ispr = s.ispr := rfl
@[simp] theorem State.held_stopped : (s.held).stopped = s.stopped := rfl
@[simp] theorem State.held_deadlocked : (s.held).deadlocked = s.deadlocked := rfl
@[simp] theorem State.held_afterReset : (s.held).afterReset = s.afterReset := rfl
@[simp] theorem State.held_inputs : (s.held).inputs = s.inputs := rfl
@[simp] theorem State.held_io : (s.held).io = s.io := rfl
@[simp] theorem State.held_draws : (s.held).draws = s.draws := rfl
@[simp] theorem State.held_cfg : (s.held).cfg = s.cfg := rfl

@[simp] theorem State.branch_psw (d : Byte) : (s.branch d).psw = s.psw := rfl
@[simp] theorem State.branch_sp (d : Byte) : (s.branch d).sp = s.sp := rfl
@[simp] theorem State.branch_vutw (d : Byte) : (s.branch d).vutw = s.vutw := rfl
@[simp] theorem State.branch_ram (d : Byte) : (s.branch d).ram = s.ram := rfl
@[simp] theorem State.branch_mem (d : Byte) : (s.branch d).mem = s.mem := rfl
@[simp] theorem State.branch_stbc (d : Byte) : (s.branch d).stbc = s.stbc := rfl
@[simp] theorem State.branch_wdm (d : Byte) : (s.branch d).wdm = s.wdm := rfl
@[simp] theorem State.branch_loc0f (d : Byte) : (s.branch d).loc0f = s.loc0f := rfl
@[simp] theorem State.branch_locDone (d : Byte) : (s.branch d).locDone = s.locDone := rfl
@[simp] theorem State.branch_ispr (d : Byte) : (s.branch d).ispr = s.ispr := rfl
@[simp] theorem State.branch_hold (d : Byte) : (s.branch d).hold = s.hold := rfl
@[simp] theorem State.branch_stopped (d : Byte) : (s.branch d).stopped = s.stopped := rfl
@[simp] theorem State.branch_deadlocked (d : Byte) : (s.branch d).deadlocked = s.deadlocked := rfl
@[simp] theorem State.branch_afterReset (d : Byte) : (s.branch d).afterReset = s.afterReset := rfl
@[simp] theorem State.branch_inputs (d : Byte) : (s.branch d).inputs = s.inputs := rfl
@[simp] theorem State.branch_io (d : Byte) : (s.branch d).io = s.io := rfl
@[simp] theorem State.branch_draws (d : Byte) : (s.branch d).draws = s.draws := rfl
@[simp] theorem State.branch_cfg (d : Byte) : (s.branch d).cfg = s.cfg := rfl

@[simp] theorem State.again_psw (n : PAddr) : (s.again n).psw = s.psw := rfl
@[simp] theorem State.again_sp (n : PAddr) : (s.again n).sp = s.sp := rfl
@[simp] theorem State.again_vutw (n : PAddr) : (s.again n).vutw = s.vutw := rfl
@[simp] theorem State.again_ram (n : PAddr) : (s.again n).ram = s.ram := rfl
@[simp] theorem State.again_mem (n : PAddr) : (s.again n).mem = s.mem := rfl
@[simp] theorem State.again_stbc (n : PAddr) : (s.again n).stbc = s.stbc := rfl
@[simp] theorem State.again_wdm (n : PAddr) : (s.again n).wdm = s.wdm := rfl
@[simp] theorem State.again_loc0f (n : PAddr) : (s.again n).loc0f = s.loc0f := rfl
@[simp] theorem State.again_locDone (n : PAddr) : (s.again n).locDone = s.locDone := rfl
@[simp] theorem State.again_ispr (n : PAddr) : (s.again n).ispr = s.ispr := rfl
@[simp] theorem State.again_hold (n : PAddr) : (s.again n).hold = s.hold := rfl
@[simp] theorem State.again_stopped (n : PAddr) : (s.again n).stopped = s.stopped := rfl
@[simp] theorem State.again_deadlocked (n : PAddr) : (s.again n).deadlocked = s.deadlocked := rfl
@[simp] theorem State.again_afterReset (n : PAddr) : (s.again n).afterReset = s.afterReset := rfl
@[simp] theorem State.again_inputs (n : PAddr) : (s.again n).inputs = s.inputs := rfl
@[simp] theorem State.again_io (n : PAddr) : (s.again n).io = s.io := rfl
@[simp] theorem State.again_draws (n : PAddr) : (s.again n).draws = s.draws := rfl
@[simp] theorem State.again_cfg (n : PAddr) : (s.again n).cfg = s.cfg := rfl

@[simp] theorem State.past_psw (n : Nat) : (s.past n).psw = s.psw := rfl
@[simp] theorem State.past_sp (n : Nat) : (s.past n).sp = s.sp := rfl
@[simp] theorem State.past_vutw (n : Nat) : (s.past n).vutw = s.vutw := rfl
@[simp] theorem State.past_ram (n : Nat) : (s.past n).ram = s.ram := rfl
@[simp] theorem State.past_mem (n : Nat) : (s.past n).mem = s.mem := rfl
@[simp] theorem State.past_stbc (n : Nat) : (s.past n).stbc = s.stbc := rfl
@[simp] theorem State.past_wdm (n : Nat) : (s.past n).wdm = s.wdm := rfl
@[simp] theorem State.past_loc0f (n : Nat) : (s.past n).loc0f = s.loc0f := rfl
@[simp] theorem State.past_locDone (n : Nat) : (s.past n).locDone = s.locDone := rfl
@[simp] theorem State.past_ispr (n : Nat) : (s.past n).ispr = s.ispr := rfl
@[simp] theorem State.past_hold (n : Nat) : (s.past n).hold = s.hold := rfl
@[simp] theorem State.past_stopped (n : Nat) : (s.past n).stopped = s.stopped := rfl
@[simp] theorem State.past_deadlocked (n : Nat) : (s.past n).deadlocked = s.deadlocked := rfl
@[simp] theorem State.past_afterReset (n : Nat) : (s.past n).afterReset = s.afterReset := rfl
@[simp] theorem State.past_inputs (n : Nat) : (s.past n).inputs = s.inputs := rfl
@[simp] theorem State.past_io (n : Nat) : (s.past n).io = s.io := rfl
@[simp] theorem State.past_draws (n : Nat) : (s.past n).draws = s.draws := rfl
@[simp] theorem State.past_cfg (n : Nat) : (s.past n).cfg = s.cfg := rfl

@[simp] theorem State.sfrOut_pc (o : Byte) (n : Nat) (v : Long) : (s.sfrOut o n v).pc = s.pc := rfl
@[simp] theorem State.sfrOut_psw (o : Byte) (n : Nat) (v : Long) : (s.sfrOut o n v).psw = s.psw := rfl
@[simp] theorem State.sfrOut_sp (o : Byte) (n : Nat) (v : Long) : (s.sfrOut o n v).sp = s.sp := rfl
@[simp] theorem State.sfrOut_vutw (o : Byte) (n : Nat) (v : Long) : (s.sfrOut o n v).vutw = s.vutw := rfl
@[simp] theorem State.sfrOut_ram (o : Byte) (n : Nat) (v : Long) : (s.sfrOut o n v).ram = s.ram := rfl
@[simp] theorem State.sfrOut_mem (o : Byte) (n : Nat) (v : Long) : (s.sfrOut o n v).mem = s.mem := rfl
@[simp] theorem State.sfrOut_stbc (o : Byte) (n : Nat) (v : Long) : (s.sfrOut o n v).stbc = s.stbc := rfl
@[simp] theorem State.sfrOut_wdm (o : Byte) (n : Nat) (v : Long) : (s.sfrOut o n v).wdm = s.wdm := rfl
@[simp] theorem State.sfrOut_loc0f (o : Byte) (n : Nat) (v : Long) : (s.sfrOut o n v).loc0f = s.loc0f := rfl
@[simp] theorem State.sfrOut_locDone (o : Byte) (n : Nat) (v : Long) : (s.sfrOut o n v).locDone = s.locDone := rfl
@[simp] theorem State.sfrOut_ispr (o : Byte) (n : Nat) (v : Long) : (s.sfrOut o n v).ispr = s.ispr := rfl
@[simp] theorem State.sfrOut_hold (o : Byte) (n : Nat) (v : Long) : (s.sfrOut o n v).hold = s.hold := rfl
@[simp] theorem State.sfrOut_stopped (o : Byte) (n : Nat) (v : Long) : (s.sfrOut o n v).stopped = s.stopped := rfl
@[simp] theorem State.sfrOut_deadlocked (o : Byte) (n : Nat) (v : Long) : (s.sfrOut o n v).deadlocked = s.deadlocked := rfl
@[simp] theorem State.sfrOut_afterReset (o : Byte) (n : Nat) (v : Long) : (s.sfrOut o n v).afterReset = s.afterReset := rfl
@[simp] theorem State.sfrOut_inputs (o : Byte) (n : Nat) (v : Long) : (s.sfrOut o n v).inputs = s.inputs := rfl
@[simp] theorem State.sfrOut_draws (o : Byte) (n : Nat) (v : Long) : (s.sfrOut o n v).draws = s.draws := rfl
@[simp] theorem State.sfrOut_cfg (o : Byte) (n : Nat) (v : Long) : (s.sfrOut o n v).cfg = s.cfg := rfl

@[simp] theorem State.acked_pc (v : Nat) : (s.acked v).pc = s.pc := rfl
@[simp] theorem State.acked_psw (v : Nat) : (s.acked v).psw = s.psw := rfl
@[simp] theorem State.acked_sp (v : Nat) : (s.acked v).sp = s.sp := rfl
@[simp] theorem State.acked_vutw (v : Nat) : (s.acked v).vutw = s.vutw := rfl
@[simp] theorem State.acked_ram (v : Nat) : (s.acked v).ram = s.ram := rfl
@[simp] theorem State.acked_mem (v : Nat) : (s.acked v).mem = s.mem := rfl
@[simp] theorem State.acked_stbc (v : Nat) : (s.acked v).stbc = s.stbc := rfl
@[simp] theorem State.acked_wdm (v : Nat) : (s.acked v).wdm = s.wdm := rfl
@[simp] theorem State.acked_loc0f (v : Nat) : (s.acked v).loc0f = s.loc0f := rfl
@[simp] theorem State.acked_locDone (v : Nat) : (s.acked v).locDone = s.locDone := rfl
@[simp] theorem State.acked_ispr (v : Nat) : (s.acked v).ispr = s.ispr := rfl
@[simp] theorem State.acked_hold (v : Nat) : (s.acked v).hold = s.hold := rfl
@[simp] theorem State.acked_deadlocked (v : Nat) : (s.acked v).deadlocked = s.deadlocked := rfl
@[simp] theorem State.acked_afterReset (v : Nat) : (s.acked v).afterReset = s.afterReset := rfl
@[simp] theorem State.acked_inputs (v : Nat) : (s.acked v).inputs = s.inputs := rfl
@[simp] theorem State.acked_draws (v : Nat) : (s.acked v).draws = s.draws := rfl
@[simp] theorem State.acked_cfg (v : Nat) : (s.acked v).cfg = s.cfg := rfl

@[simp] theorem State.contextSwitch_sp (n : BitVec 3) (r : PAddr) : (s.contextSwitch n r).sp = s.sp := rfl
@[simp] theorem State.contextSwitch_vutw (n : BitVec 3) (r : PAddr) : (s.contextSwitch n r).vutw = s.vutw := rfl
@[simp] theorem State.contextSwitch_mem (n : BitVec 3) (r : PAddr) : (s.contextSwitch n r).mem = s.mem := rfl
@[simp] theorem State.contextSwitch_stbc (n : BitVec 3) (r : PAddr) : (s.contextSwitch n r).stbc = s.stbc := rfl
@[simp] theorem State.contextSwitch_wdm (n : BitVec 3) (r : PAddr) : (s.contextSwitch n r).wdm = s.wdm := rfl
@[simp] theorem State.contextSwitch_loc0f (n : BitVec 3) (r : PAddr) : (s.contextSwitch n r).loc0f = s.loc0f := rfl
@[simp] theorem State.contextSwitch_locDone (n : BitVec 3) (r : PAddr) : (s.contextSwitch n r).locDone = s.locDone := rfl
@[simp] theorem State.contextSwitch_ispr (n : BitVec 3) (r : PAddr) : (s.contextSwitch n r).ispr = s.ispr := rfl
@[simp] theorem State.contextSwitch_hold (n : BitVec 3) (r : PAddr) : (s.contextSwitch n r).hold = s.hold := rfl
@[simp] theorem State.contextSwitch_stopped (n : BitVec 3) (r : PAddr) : (s.contextSwitch n r).stopped = s.stopped := rfl
@[simp] theorem State.contextSwitch_deadlocked (n : BitVec 3) (r : PAddr) : (s.contextSwitch n r).deadlocked = s.deadlocked := rfl
@[simp] theorem State.contextSwitch_afterReset (n : BitVec 3) (r : PAddr) : (s.contextSwitch n r).afterReset = s.afterReset := rfl
@[simp] theorem State.contextSwitch_inputs (n : BitVec 3) (r : PAddr) : (s.contextSwitch n r).inputs = s.inputs := rfl
@[simp] theorem State.contextSwitch_io (n : BitVec 3) (r : PAddr) : (s.contextSwitch n r).io = s.io := rfl
@[simp] theorem State.contextSwitch_draws (n : BitVec 3) (r : PAddr) : (s.contextSwitch n r).draws = s.draws := rfl
@[simp] theorem State.contextSwitch_cfg (n : BitVec 3) (r : PAddr) : (s.contextSwitch n r).cfg = s.cfg := rfl

@[simp] theorem State.contextReturn_sp (w : Word) : (s.contextReturn w).sp = s.sp := rfl
@[simp] theorem State.contextReturn_vutw (w : Word) : (s.contextReturn w).vutw = s.vutw := rfl
@[simp] theorem State.contextReturn_mem (w : Word) : (s.contextReturn w).mem = s.mem := rfl
@[simp] theorem State.contextReturn_stbc (w : Word) : (s.contextReturn w).stbc = s.stbc := rfl
@[simp] theorem State.contextReturn_wdm (w : Word) : (s.contextReturn w).wdm = s.wdm := rfl
@[simp] theorem State.contextReturn_loc0f (w : Word) : (s.contextReturn w).loc0f = s.loc0f := rfl
@[simp] theorem State.contextReturn_locDone (w : Word) : (s.contextReturn w).locDone = s.locDone := rfl
@[simp] theorem State.contextReturn_ispr (w : Word) : (s.contextReturn w).ispr = s.ispr := rfl
@[simp] theorem State.contextReturn_hold (w : Word) : (s.contextReturn w).hold = s.hold := rfl
@[simp] theorem State.contextReturn_stopped (w : Word) : (s.contextReturn w).stopped = s.stopped := rfl
@[simp] theorem State.contextReturn_deadlocked (w : Word) : (s.contextReturn w).deadlocked = s.deadlocked := rfl
@[simp] theorem State.contextReturn_afterReset (w : Word) : (s.contextReturn w).afterReset = s.afterReset := rfl
@[simp] theorem State.contextReturn_inputs (w : Word) : (s.contextReturn w).inputs = s.inputs := rfl
@[simp] theorem State.contextReturn_io (w : Word) : (s.contextReturn w).io = s.io := rfl
@[simp] theorem State.contextReturn_draws (w : Word) : (s.contextReturn w).draws = s.draws := rfl
@[simp] theorem State.contextReturn_cfg (w : Word) : (s.contextReturn w).cfg = s.cfg := rfl

@[simp] theorem State.atBoundary_pc (b : Boundary) : (s.atBoundary b).pc = s.pc := rfl
@[simp] theorem State.atBoundary_psw (b : Boundary) : (s.atBoundary b).psw = s.psw := rfl
@[simp] theorem State.atBoundary_sp (b : Boundary) : (s.atBoundary b).sp = s.sp := rfl
@[simp] theorem State.atBoundary_vutw (b : Boundary) : (s.atBoundary b).vutw = s.vutw := rfl
@[simp] theorem State.atBoundary_ram (b : Boundary) : (s.atBoundary b).ram = s.ram := rfl
@[simp] theorem State.atBoundary_mem (b : Boundary) : (s.atBoundary b).mem = s.mem := rfl
@[simp] theorem State.atBoundary_stbc (b : Boundary) : (s.atBoundary b).stbc = s.stbc := rfl
@[simp] theorem State.atBoundary_wdm (b : Boundary) : (s.atBoundary b).wdm = s.wdm := rfl
@[simp] theorem State.atBoundary_loc0f (b : Boundary) : (s.atBoundary b).loc0f = s.loc0f := rfl
@[simp] theorem State.atBoundary_locDone (b : Boundary) : (s.atBoundary b).locDone = s.locDone := rfl
@[simp] theorem State.atBoundary_ispr (b : Boundary) : (s.atBoundary b).ispr = s.ispr := rfl
@[simp] theorem State.atBoundary_hold (b : Boundary) : (s.atBoundary b).hold = s.hold := rfl
@[simp] theorem State.atBoundary_deadlocked (b : Boundary) : (s.atBoundary b).deadlocked = s.deadlocked := rfl
@[simp] theorem State.atBoundary_afterReset (b : Boundary) : (s.atBoundary b).afterReset = s.afterReset := rfl
@[simp] theorem State.atBoundary_inputs (b : Boundary) : (s.atBoundary b).inputs = s.inputs := rfl
@[simp] theorem State.atBoundary_io (b : Boundary) : (s.atBoundary b).io = s.io := rfl
@[simp] theorem State.atBoundary_draws (b : Boundary) : (s.atBoundary b).draws = s.draws := rfl
@[simp] theorem State.atBoundary_cfg (b : Boundary) : (s.atBoundary b).cfg = s.cfg := rfl

@[simp] theorem State.stuck_pc : (s.stuck).pc = s.pc := rfl
@[simp] theorem State.stuck_psw : (s.stuck).psw = s.psw := rfl
@[simp] theorem State.stuck_sp : (s.stuck).sp = s.sp := rfl
@[simp] theorem State.stuck_vutw : (s.stuck).vutw = s.vutw := rfl
@[simp] theorem State.stuck_ram : (s.stuck).ram = s.ram := rfl
@[simp] theorem State.stuck_mem : (s.stuck).mem = s.mem := rfl
@[simp] theorem State.stuck_stbc : (s.stuck).stbc = s.stbc := rfl
@[simp] theorem State.stuck_wdm : (s.stuck).wdm = s.wdm := rfl
@[simp] theorem State.stuck_loc0f : (s.stuck).loc0f = s.loc0f := rfl
@[simp] theorem State.stuck_locDone : (s.stuck).locDone = s.locDone := rfl
@[simp] theorem State.stuck_ispr : (s.stuck).ispr = s.ispr := rfl
@[simp] theorem State.stuck_hold : (s.stuck).hold = s.hold := rfl
@[simp] theorem State.stuck_stopped : (s.stuck).stopped = s.stopped := rfl
@[simp] theorem State.stuck_afterReset : (s.stuck).afterReset = s.afterReset := rfl
@[simp] theorem State.stuck_inputs : (s.stuck).inputs = s.inputs := rfl
@[simp] theorem State.stuck_io : (s.stuck).io = s.io := rfl
@[simp] theorem State.stuck_draws : (s.stuck).draws = s.draws := rfl
@[simp] theorem State.stuck_cfg : (s.stuck).cfg = s.cfg := rfl

@[simp] theorem State.initialized_pc : (s.initialized).pc = s.pc := rfl
@[simp] theorem State.initialized_vutw : (s.initialized).vutw = s.vutw := rfl
@[simp] theorem State.initialized_ram : (s.initialized).ram = s.ram := rfl
@[simp] theorem State.initialized_mem : (s.initialized).mem = s.mem := rfl
@[simp] theorem State.initialized_inputs : (s.initialized).inputs = s.inputs := rfl
@[simp] theorem State.initialized_cfg : (s.initialized).cfg = s.cfg := rfl

@[simp] theorem State.completed_pc (p : PAddr) (i : Instr) : (s.completed p i).pc = s.pc := rfl
@[simp] theorem State.completed_psw (p : PAddr) (i : Instr) : (s.completed p i).psw = s.psw := rfl
@[simp] theorem State.completed_sp (p : PAddr) (i : Instr) : (s.completed p i).sp = s.sp := rfl
@[simp] theorem State.completed_vutw (p : PAddr) (i : Instr) : (s.completed p i).vutw = s.vutw := rfl
@[simp] theorem State.completed_ram (p : PAddr) (i : Instr) : (s.completed p i).ram = s.ram := rfl
@[simp] theorem State.completed_mem (p : PAddr) (i : Instr) : (s.completed p i).mem = s.mem := rfl
@[simp] theorem State.completed_stbc (p : PAddr) (i : Instr) : (s.completed p i).stbc = s.stbc := rfl
@[simp] theorem State.completed_wdm (p : PAddr) (i : Instr) : (s.completed p i).wdm = s.wdm := rfl
@[simp] theorem State.completed_loc0f (p : PAddr) (i : Instr) : (s.completed p i).loc0f = s.loc0f := rfl
@[simp] theorem State.completed_locDone (p : PAddr) (i : Instr) : (s.completed p i).locDone = s.locDone := rfl
@[simp] theorem State.completed_ispr (p : PAddr) (i : Instr) : (s.completed p i).ispr = s.ispr := rfl
@[simp] theorem State.completed_hold (p : PAddr) (i : Instr) : (s.completed p i).hold = s.hold := rfl
@[simp] theorem State.completed_stopped (p : PAddr) (i : Instr) : (s.completed p i).stopped = s.stopped := rfl
@[simp] theorem State.completed_deadlocked (p : PAddr) (i : Instr) : (s.completed p i).deadlocked = s.deadlocked := rfl
@[simp] theorem State.completed_inputs (p : PAddr) (i : Instr) : (s.completed p i).inputs = s.inputs := rfl
@[simp] theorem State.completed_io (p : PAddr) (i : Instr) : (s.completed p i).io = s.io := rfl
@[simp] theorem State.completed_draws (p : PAddr) (i : Instr) : (s.completed p i).draws = s.draws := rfl
@[simp] theorem State.completed_cfg (p : PAddr) (i : Instr) : (s.completed p i).cfg = s.cfg := rfl

@[simp] theorem State.setSp_sp (v : Long) : (s.setSp v).sp = v &&& s.cfg.spMask := rfl
@[simp] theorem State.tell_io (e : IoEvent) : (s.tell e).io = e :: s.io := rfl
@[simp] theorem State.setCy_psw (v : Bool) : (s.setCy v).psw = { s.psw with cy := v } := rfl
@[simp] theorem State.held_hold : s.held.hold = true := rfl
@[simp] theorem State.stuck_deadlocked : s.stuck.deadlocked = true := rfl
@[simp] theorem State.initialized_deadlocked : s.initialized.deadlocked = false := rfl
@[simp] theorem State.initialized_psw : s.initialized.psw = State.reset.psw := rfl
@[simp] theorem State.initialized_loc0f : s.initialized.loc0f = false := rfl
@[simp] theorem State.branch_pc (d : Byte) : (s.branch d).pc = s.pc + d.signExtend 20 := rfl
@[simp] theorem State.again_pc (n : PAddr) : (s.again n).pc = s.pc - n := rfl
@[simp] theorem State.past_pc (n : Nat) : (s.past n).pc = s.pc + BitVec.ofNat 20 n := rfl
@[simp] theorem State.setRam8_ram (k : Nat) (v : Byte) : (s.setRam8 k v).ram = Memory.write s.ram k v := rfl

end Sys2Proof.Machine
end

