-- ==== Sys2Proof/Laws/Ops.lean ====
section
/-! SUPPORT. The shared operations: what each can do, said once. -/

namespace Sys2Proof.Machine

/-! ## Actions -/

theorem run_next {m : Act Unit} {s t : State} : run m s = .next t ↔ m s = .ok ((), t) := by
  unfold run
  cases h : m s with
  | ok x => obtain ⟨⟨⟩, u⟩ := x; simp
  | error e => cases e <;> simp

theorem run_of_ok {m : Act Unit} {s t : State} (h : m s = .ok ((), t)) : run m s = .next t := run_next.mpr h

theorem bind_apply {α β : Type} (m : Act α) (f : α → Act β) (s : State) :
    (m >>= f) s = match m s with
      | .ok (x, t) => f x t
      | .error e => .error e := by
  show (m s >>= fun p => f p.1 p.2) = _
  cases m s <;> rfl

theorem bind_ok {α β : Type} {m : Act α} {f : α → Act β} {s t : State} {x : β} :
    (m >>= f) s = .ok (x, t) ↔ ∃ y u, m s = .ok (y, u) ∧ f y u = .ok (x, t) := by
  rw [bind_apply]
  cases h : m s with
  | ok p =>
    obtain ⟨y, u⟩ := p
    constructor
    · exact fun g => ⟨y, u, rfl, g⟩
    · rintro ⟨y', u', e, g⟩; cases e; exact g
  | error e => simp

/-- A first action that answers: go on with its answer and its state. -/
theorem bind_of {α β : Type} {m : Act α} {s : State} {p : α × State} (f : α → Act β) (h : m s = .ok p) :
    (m >>= f) s = f p.1 p.2 := by rw [bind_apply, h]

theorem run_bind_of {α : Type} {m : Act α} {s : State} {p : α × State} (f : α → Act Unit)
    (h : m s = .ok p) : run (m >>= f) s = run (f p.1) p.2 := by
  unfold run; rw [bind_of f h]

@[simp] theorem pure_apply {α : Type} (x : α) (s : State) : (pure x : Act α) s = .ok (x, s) := rfl
@[simp] theorem get_apply (s : State) : (get : Act State) s = .ok (s, s) := rfl
@[simp] theorem set_apply (s t : State) : (set t : Act PUnit) s = .ok (⟨⟩, t) := rfl
@[simp] theorem modify_apply (f : State → State) (s : State) : (modify f : Act PUnit) s = .ok (⟨⟩, f s) := rfl
@[simp] theorem draw_apply (s : State) :
    draw s = .ok (Config.undef s.draws, { s with draws := s.draws + 1 }) := rfl
@[simp] theorem refuse_apply {α : Type} (r : Refusal) (s : State) :
    (refuse r : Act α) s = .error (.refused r) := rfl

theorem guarded_apply {α : Type} (ok : State → Bool) (f : State → α × State) (s : State) :
    guarded ok f s = if ok s then .ok (f s) else .error (.fault .deadlock) := rfl

theorem guarded_of {α : Type} {ok : State → Bool} {s : State} (f : State → α × State) (h : ok s = true) :
    guarded ok f s = .ok (f s) := by simp [guarded_apply, h]

theorem guardedSet_of {ok : State → Bool} {s : State} (f : State → State) (h : ok s = true) :
    guardedSet ok f s = .ok ((), f s) := guarded_of (fun s => ((), f s)) h

theorem guarded_ok {α : Type} {ok : State → Bool} {f : State → α × State} {s t : State} {x : α} :
    guarded ok f s = .ok (x, t) ↔ ok s = true ∧ f s = (x, t) := by
  rw [guarded_apply]; split <;> simp [*]

theorem guardedSet_ok {ok : State → Bool} {f : State → State} {s t : State} :
    guardedSet ok f s = .ok ((), t) ↔ ok s = true ∧ f s = t := by
  unfold guardedSet; rw [guarded_ok]; simp

/-- The next states of a guarded action. -/
theorem run_guardedSet {ok : State → Bool} {f : State → State} {s t : State} :
    run (guardedSet ok f) s = .next t ↔ ok s = true ∧ f s = t := by rw [run_next, guardedSet_ok]

@[simp] theorem run_modify (f : State → State) (s : State) : run (modify f) s = .next (f s) := rfl

theorem readByte_of {s : State} {a : Long} (h : s.readable a = true) : readByte a s = .ok (s.look a) :=
  guarded_of (fun s => s.look a) h
theorem readMem16_of {s : State} {a : Long} (h : s.readableN a 2 = true) :
    readMem16 a s = .ok (s.look16 a) := guarded_of (fun s => s.look16 a) h
theorem readMem24_of {s : State} {a : Long} (h : s.readableN a 3 = true) :
    readMem24 a s = .ok (s.look24 a) := guarded_of (fun s => s.look24 a) h
theorem writeByte_of {s : State} {a : Long} (v : Byte) (h : s.writable a = true) :
    writeByte a v s = .ok ((), s.store a v) := guardedSet_of (fun s => s.store a v) h
theorem writeMem16_of {s : State} {a : Long} (w : Word) (h : s.writableN a 2 = true) :
    writeMem16 a w s = .ok ((), s.store16 a w) := guardedSet_of (fun s => s.store16 a w) h
theorem writeMem24_of {s : State} {a : Long} (l : Long) (h : s.writableN a 3 = true) :
    writeMem24 a l s = .ok ((), s.store24 a l) := guardedSet_of (fun s => s.store24 a l) h
theorem push16_of {s : State} (w : Word) (h : s.writableN (s.sp - 2) 2 = true) :
    push16 w s = .ok ((), s.push16 w) := guardedSet_of (fun s => s.push16 w) h
theorem push24_of {s : State} (l : Long) (h : s.writableN (s.sp - 3) 3 = true) :
    push24 l s = .ok ((), s.push24 l) := guardedSet_of (fun s => s.push24 l) h
theorem pop16_of {s : State} (h : s.readableN s.sp 2 = true) : pop16 s = .ok s.pop16 :=
  guarded_of (fun s => s.pop16) h
theorem pop24_of {s : State} (h : s.readableN s.sp 3 = true) : pop24 s = .ok s.pop24 :=
  guarded_of (fun s => s.pop24) h
theorem acknowledge_of {s : State} {vec : Nat} (ret : PAddr) (hw : s.writableN (s.sp - 4) 4 = true)
    (hr : s.readableN (BitVec.ofNat 24 vec) 2 = true) :
    acknowledge vec ret s = .ok ((), s.acknowledge vec ret) :=
  guardedSet_of (fun s => s.acknowledge vec ret) (by simp only [hw, hr, Bool.and_self])
theorem returnFromStack_of {s : State} (h : s.readableN s.sp 4 = true) :
    returnFromStack s = .ok ((), s.returnFromStack) := guardedSet_of (fun s => s.returnFromStack) h

/-! ## What an address resolves to depends on the product and LOCBASE only -/

theorem State.locBase_congr {s t : State} (hl : t.loc0f = s.loc0f) : t.locBase = s.locBase := by
  simp only [State.locBase, hl]

theorem State.place_congr {s t : State} (hc : t.cfg = s.cfg) (hl : t.loc0f = s.loc0f) (a : Long) :
    t.place a = s.place a := by
  have h : t.ramBase = s.ramBase := by rw [State.ramBase, State.ramBase, hc]
  rw [State.place, State.place, State.locBase_congr hl, h, hc]

theorem State.sfrMapped_congr {s t : State} (hc : t.cfg = s.cfg) (o : Byte) :
    t.sfrMapped o = s.sfrMapped o := by simp only [State.sfrMapped, hc]

theorem State.sfrGuarded_congr {s t : State} (hc : t.cfg = s.cfg) (o : Byte) :
    t.sfrGuarded o = s.sfrGuarded o := by simp only [State.sfrGuarded, hc]

theorem State.readable_congr {s t : State} (hc : t.cfg = s.cfg) (hl : t.loc0f = s.loc0f) (a : Long) :
    t.readable a = s.readable a := by
  rw [State.readable, State.readable, State.place_congr hc hl]
  cases s.place a <;> first | rfl | exact State.sfrMapped_congr hc _

theorem State.writable_congr {s t : State} (hc : t.cfg = s.cfg) (hl : t.loc0f = s.loc0f) (a : Long) :
    t.writable a = s.writable a := by
  rw [State.writable, State.writable, State.place_congr hc hl]
  cases s.place a <;> first | rfl | simp only [State.writableAt, State.sfrMapped_congr hc, State.sfrGuarded_congr hc]

theorem State.readableN_congr {s t : State} (hc : t.cfg = s.cfg) (hl : t.loc0f = s.loc0f) (a : Long)
    (n : Nat) : t.readableN a n = s.readableN a n := by
  simp only [State.readableN, State.readable_congr hc hl]

theorem State.writableN_congr {s t : State} (hc : t.cfg = s.cfg) (hl : t.loc0f = s.loc0f) (a : Long)
    (n : Nat) : t.writableN a n = s.writableN a n := by
  simp only [State.writableN, State.writable_congr hc hl]

theorem State.plain_congr {s t : State} (hc : t.cfg = s.cfg) (hl : t.loc0f = s.loc0f) (a : Long) :
    t.plain a = s.plain a := by rw [State.plain, State.plain, State.place_congr hc hl]

theorem State.peek_congr {s t : State} (hc : t.cfg = s.cfg) (hl : t.loc0f = s.loc0f) (hr : t.ram = s.ram)
    (hm : t.mem = s.mem) (a : Long) : t.peek a = s.peek a := by
  rw [State.peek, State.peek, State.place_congr hc hl]
  cases s.place a <;> simp only [State.peekAt, hr, hm]

/-! ## Reads change nothing but the record of the exchanges with the host -/

theorem State.look_io (s : State) (a : Long) : ∃ i, (s.look a).2 = { s with io := i } := by
  rw [State.look]; cases s.place a <;> exact ⟨_, rfl⟩

theorem State.look16_io (s : State) (a : Long) : ∃ i, (s.look16 a).2 = { s with io := i } := by
  rw [State.look16]
  cases s.sfrSpan a 2 with
  | some off => exact ⟨_, rfl⟩
  | none =>
    obtain ⟨i, hi⟩ := s.look_io a
    obtain ⟨j, hj⟩ := State.look_io { s with io := i } (a + 1)
    exact ⟨j, by simp only [hi, hj]⟩

theorem State.look24_io (s : State) (a : Long) : ∃ i, (s.look24 a).2 = { s with io := i } := by
  rw [State.look24]
  cases s.sfrSpan a 3 with
  | some off => exact ⟨_, rfl⟩
  | none =>
    obtain ⟨i, hi⟩ := s.look_io a
    obtain ⟨j, hj⟩ := State.look_io { s with io := i } (a + 1)
    obtain ⟨k, hk⟩ := State.look_io { s with io := j } (a + 2)
    exact ⟨k, by simp only [hi, hj, hk]⟩

/-- Of plain memory and ROM a read answers the byte `peek` gives and changes nothing. -/
theorem State.look_of_peek {s : State} {a : Long} {v : Byte} (h : s.peek a = some v) :
    s.look a = (v, s) ∧ s.readable a = true := by
  rw [State.peek] at h
  rw [State.look, State.readable]
  cases hp : s.place a <;> rw [hp] at h <;> simp_all [State.peekAt, State.lookAt, State.readableAt]

theorem State.sfrSpan_of_peek {s : State} {a : Long} {v : Byte} (h : s.peek a = some v) (n : Nat) :
    s.sfrSpan a n = none := by
  rw [State.peek] at h
  rw [State.sfrSpan]
  cases hp : s.place a <;> rw [hp] at h <;> simp_all [State.peekAt, State.sfrSpanAt]

theorem State.look16_of_peek {s : State} {a : Long} {w : Word} (h : s.peek16 a = some w) :
    s.look16 a = (w, s) ∧ s.readableN a 2 = true := by
  unfold State.peek16 at h
  split at h
  · next lo hi h1 h2 =>
    have l1 := State.look_of_peek h1
    have l2 := State.look_of_peek h2
    simp only [Option.some.injEq] at h
    constructor
    · simp only [State.look16, State.sfrSpan_of_peek h1, l1.1, l2.1, h]
    · have e0 : a + BitVec.ofNat 24 0 = a := by simp
      simpa [State.readableN, List.range_succ, e0, l1.2] using l2.2
  · cases h

/-! ## A store changes RAM, external memory or the record, and no byte but its own -/

theorem State.store_parts (s : State) (a : Long) (v : Byte) :
    ∃ r m i, s.store a v = { s with ram := r, mem := m, io := i } := by
  rw [State.store]
  cases s.place a with
  | sfr o => rw [State.storeAt]; split <;> exact ⟨_, _, _, rfl⟩
  | _ => exact ⟨_, _, _, rfl⟩

theorem State.store16_parts (s : State) (a : Long) (w : Word) :
    ∃ r m i, s.store16 a w = { s with ram := r, mem := m, io := i } := by
  rw [State.store16]
  cases s.sfrSpanW a 2 with
  | some off => exact ⟨_, _, _, rfl⟩
  | none =>
    obtain ⟨r, m, i, h⟩ := s.store_parts a (w.extractLsb' 0 8)
    obtain ⟨r', m', i', h'⟩ := State.store_parts { s with ram := r, mem := m, io := i } (a + 1) (w.extractLsb' 8 8)
    exact ⟨r', m', i', by simp only [h, h']⟩

theorem State.store24_parts (s : State) (a : Long) (l : Long) :
    ∃ r m i, s.store24 a l = { s with ram := r, mem := m, io := i } := by
  rw [State.store24]
  cases s.sfrSpanW a 3 with
  | some off => exact ⟨_, _, _, rfl⟩
  | none =>
    obtain ⟨r, m, i, h⟩ := s.store_parts a (l.extractLsb' 0 8)
    obtain ⟨r', m', i', h'⟩ := State.store_parts { s with ram := r, mem := m, io := i } (a + 1) (l.extractLsb' 8 8)
    obtain ⟨r2, m2, i2, h2⟩ := State.store_parts { s with ram := r', mem := m', io := i' } (a + 2) (l.extractLsb' 16 8)
    exact ⟨r2, m2, i2, by simp only [h, h', h2]⟩

theorem State.store_cfg (s : State) (a : Long) (v : Byte) : (s.store a v).cfg = s.cfg := by
  obtain ⟨_, _, _, h⟩ := s.store_parts a v; rw [h]

theorem State.store_loc0f (s : State) (a : Long) (v : Byte) : (s.store a v).loc0f = s.loc0f := by
  obtain ⟨_, _, _, h⟩ := s.store_parts a v; rw [h]

/-- The addresses of the areas. -/
theorem State.place_ram {s : State} {a : Long} {k : Nat} (h : s.place a = .ram k) :
    a.toNat = s.locBase + k ∧ s.ramBase ≤ k ∧ k < 0xFF00 := by
  rw [State.place, placeIn] at h
  repeat' split at h
  all_goals first | (cases h; omega) | cases h

theorem State.place_rom {s : State} {a : Long} {n : Nat} (h : s.place a = .rom n) : a.toNat = n := by
  rw [State.place, placeIn] at h
  repeat' split at h
  all_goals first | cases h; rfl | cases h

theorem State.place_ext {s : State} {a : Long} {n : Nat} (h : s.place a = .ext n) : a.toNat = n := by
  rw [State.place, placeIn] at h
  repeat' split at h
  all_goals first | cases h; rfl | cases h

/-- A store changes no byte but its own. -/
theorem State.peek_store {s : State} {a b : Long} (v : Byte) (h : b ≠ a) :
    (s.store a v).peek b = s.peek b := by
  have hn : b.toNat ≠ a.toNat := fun e => h (BitVec.eq_of_toNat_eq e)
  have e : (s.store a v).place b = s.place b :=
    State.place_congr (s.store_cfg a v) (s.store_loc0f a v) b
  rw [State.peek, State.peek, e, State.store]
  cases ha : s.place a with
  | ram k =>
    have h1 := State.place_ram ha
    cases hb : s.place b with
    | ram j =>
      have h2 := State.place_ram hb
      simp only [State.storeAt, State.peekAt, State.setRam8_ram,
        Memory.read_write_other v (by omega : j ≠ k)]
    | _ => rfl
  | sfr o => simp only [State.storeAt]; split <;> cases s.place b <;> rfl
  | rom n => rfl
  | ext n =>
    have h1 := State.place_ext ha
    cases hb : s.place b with
    | rom j =>
      have h2 := State.place_rom hb
      simp only [State.storeAt, State.peekAt, Memory.read_write_other v (by omega : j ≠ n)]
    | ext j =>
      have h2 := State.place_ext hb
      simp only [State.storeAt, State.peekAt, Memory.read_write_other v (by omega : j ≠ n)]
    | _ => rfl
  | unmapped => rfl

/-- A byte stored in plain memory is read back. -/
theorem State.peek_store_same {s : State} {a : Long} (v : Byte) (hp : s.plain a = true)
    (hr : s.ram.wf = true) (hm : s.mem.wf = true) : (s.store a v).peek a = some v := by
  have e : (s.store a v).place a = s.place a :=
    State.place_congr (s.store_cfg a v) (s.store_loc0f a v) a
  rw [State.peek, e, State.store]
  rw [State.plain] at hp
  cases hq : s.place a <;> rw [hq] at hp <;> simp only [Place.plain, reduceCtorEq] at hp
  · simp only [State.storeAt, State.peekAt, State.setRam8_ram, Memory.read_write_same _ v hr]
  · simp only [State.storeAt, State.peekAt, Memory.read_write_same _ v hm]

/-- A wide store of `n` bytes changes none but those. -/
theorem State.peek_store16 {s : State} {a b : Long} (w : Word) (h0 : b ≠ a) (h1 : b ≠ a + 1) :
    (s.store16 a w).peek b = s.peek b := by
  unfold State.store16; split
  · exact State.peek_congr (s := s) (t := s.sfrOut _ _ _) rfl rfl rfl rfl b
  · rw [State.peek_store _ h1, State.peek_store _ h0]

theorem State.peek_store24 {s : State} {a b : Long} (l : Long) (h0 : b ≠ a) (h1 : b ≠ a + 1)
    (h2 : b ≠ a + 2) : (s.store24 a l).peek b = s.peek b := by
  unfold State.store24; split
  · exact State.peek_congr (s := s) (t := s.sfrOut _ _ _) rfl rfl rfl rfl b
  · rw [State.peek_store _ h2, State.peek_store _ h1, State.peek_store _ h0]

/-! ## Registers -/

theorem State.ramBase_le (s : State) : s.ramBase ≤ 0xFD00 := Nat.min_le_right _ _

theorem State.locBase_cases (s : State) : s.locBase = 0 ∨ s.locBase = 0xF0000 := by
  unfold State.locBase; split <;> simp

theorem State.ramAddr_toNat {s : State} {k : Nat} (h : k < 0x10000) :
    (s.ramAddr k).toNat = s.locBase + k := by
  have := s.locBase_cases
  simp only [State.ramAddr, BitVec.toNat_ofNat]
  omega

theorem State.place_ramAddr {s : State} {k : Nat} (h0 : 0xFD00 ≤ k) (h1 : k < 0xFF00) :
    s.place (s.ramAddr k) = .ram k := by
  have hn := State.ramAddr_toNat (s := s) (k := k) (by omega)
  have hb := s.ramBase_le
  rw [State.place, placeIn, hn, if_neg (by omega), if_pos (by omega), Nat.add_sub_cancel_left]

theorem State.peek_ramAddr {s : State} {k : Nat} (h0 : 0xFD00 ≤ k) (h1 : k < 0xFF00) :
    s.peek (s.ramAddr k) = some (s.ram8 k) := by
  rw [State.peek, State.place_ramAddr h0 h1]; rfl

theorem R8.num_lt (n : R8) : n.num < 16 := by cases n <;> decide
theorem RP.num_lt (n : RP) : n.num < 8 := by cases n <;> decide

theorem regKey_range (b : BitVec 3) (n : R8) : 0xFE80 ≤ regKey b n ∧ regKey b n < 0xFF00 := by
  have := R8.num_lt n; have := b.isLt; unfold regKey; omega

theorem pairKey_range (b : BitVec 3) (n : RP) : 0xFE80 ≤ pairKey b n ∧ pairKey b n + 1 < 0xFF00 := by
  have := RP.num_lt n; have := b.isLt; unfold pairKey; omega

/-- A byte of RAM written changes only its own address. -/
theorem State.peek_setRam8 {s : State} {k : Nat} {a : Long} (v : Byte) (hk : k < 0x10000)
    (h : a ≠ s.ramAddr k) : (s.setRam8 k v).peek a = s.peek a := by
  have e : (s.setRam8 k v).place a = s.place a := State.place_congr rfl rfl a
  have h3 := State.ramAddr_toNat (s := s) hk
  have h4 : a.toNat ≠ (s.ramAddr k).toNat := fun x => h (BitVec.eq_of_toNat_eq x)
  rw [State.peek, State.peek, e]
  cases hj : s.place a with
  | ram j =>
    have h2 := State.place_ram hj
    simp only [State.peekAt, State.setRam8_ram, Memory.read_write_other v (by omega : j ≠ k)]
  | _ => rfl

theorem State.ram8_setRam8 {s : State} (k j : Nat) (v : Byte) (h : s.ram.wf = true) :
    (s.setRam8 k v).ram8 j = if j = k then v else s.ram8 j := Memory.read_write k j v h

theorem State.ram8_setRam8_other {s : State} {k j : Nat} (v : Byte) (h : j ≠ k) :
    (s.setRam8 k v).ram8 j = s.ram8 j := Memory.read_write_other v h

theorem State.setRam8_wf {s : State} (k : Nat) (v : Byte) (h : s.ram.wf = true) :
    (s.setRam8 k v).ram.wf = true := Memory.wf_write k v h

theorem word_of_bytes (w : Word) : w.extractLsb' 8 8 ++ w.extractLsb' 0 8 = w := by
  rw [BitVec.extractLsb'_append_extractLsb'_eq_extractLsb' (by rfl)]
  simp

theorem State.ram16_setRam16 {s : State} (k : Nat) (w : Word) (h : s.ram.wf = true) :
    (s.setRam16 k w).ram16 k = w := by
  unfold State.ram16 State.setRam16
  rw [State.ram8_setRam8 _ _ _ (State.setRam8_wf _ _ h), if_pos rfl,
    State.ram8_setRam8_other _ (by omega : k ≠ k + 1), State.ram8_setRam8 _ _ _ h, if_pos rfl, word_of_bytes]

end Sys2Proof.Machine
end

