-- ==== Sys2Proof/Laws/Operands.lean ====
section
/-! SUPPORT. Operands: what locating, reading and writing one can do, said once. -/

namespace Sys2Proof.Machine

/-- Two states with the same product and LOCBASE resolve and guard every access alike. -/
def State.SameMap (s t : State) : Prop := t.cfg = s.cfg ∧ t.loc0f = s.loc0f

theorem State.SameMap.refl (s : State) : s.SameMap s := ⟨rfl, rfl⟩

theorem Loc8.readable_congr {s t : State} (h : s.SameMap t) (l : Loc8) : l.readable t = l.readable s := by
  cases l <;> first | rfl | exact State.readable_congr h.1 h.2 _

theorem Loc8.writable_congr {s t : State} (h : s.SameMap t) (l : Loc8) : l.writable t = l.writable s := by
  cases l <;> first | rfl | exact State.writable_congr h.1 h.2 _

theorem State.eaSfr_congr {s t : State} (h : s.SameMap t) (o : Byte) : t.eaSfr o = s.eaSfr o := by
  rw [State.eaSfr, State.eaSfr, State.locBase_congr h.2]

theorem State.sfrLoc_congr {s t : State} (h : s.SameMap t) (o : Byte) : t.sfrLoc o = s.sfrLoc o := by
  rw [State.sfrLoc, State.sfrLoc, State.eaSfr_congr h]

theorem State.sfrNext_congr {s t : State} (h : s.SameMap t) (o : Byte) : t.sfrNext o = s.sfrNext o := by
  rw [State.sfrNext, State.sfrNext, State.eaSfr_congr h, State.sfrLoc_congr h]

theorem Loc16.readable_congr {s t : State} (h : s.SameMap t) (l : Loc16) : l.readable t = l.readable s := by
  cases l with
  | mem a => exact State.readableN_congr h.1 h.2 _ _
  | pswSfr o =>
    simp only [Loc16.readable, State.sfrLoc_congr h, State.sfrNext_congr h, Loc8.readable_congr h]
  | _ => rfl

theorem Loc16.writable_congr {s t : State} (h : s.SameMap t) (l : Loc16) : l.writable t = l.writable s := by
  cases l with
  | mem a => exact State.writableN_congr h.1 h.2 _ _
  | pswSfr o =>
    simp only [Loc16.writable, State.sfrLoc_congr h, State.sfrNext_congr h, Loc8.writable_congr h]
  | _ => rfl

theorem Loc24.readable_congr {s t : State} (h : s.SameMap t) (l : Loc24) : l.readable t = l.readable s := by
  cases l <;> first | rfl | exact State.readableN_congr h.1 h.2 _ _

theorem Loc24.writable_congr {s t : State} (h : s.SameMap t) (l : Loc24) : l.writable t = l.writable s := by
  cases l <;> first | rfl | exact State.writableN_congr h.1 h.2 _ _

/-! ## The actions, where they answer -/

theorem loc8_of {s : State} {o : Op8} (h : s.pointerOk8 o = true) : loc8 o s = .ok (s.locate8 o) :=
  guarded_of (fun s => s.locate8 o) h
theorem loc16_of {s : State} {o : Op16} (h : s.pointerOk16 o = true) : loc16 o s = .ok (s.locate16 o) :=
  guarded_of (fun s => s.locate16 o) h
theorem loc24_of {s : State} {o : Op24} (h : s.pointerOk24 o = true) : loc24 o s = .ok (s.locate24 o) :=
  guarded_of (fun s => s.locate24 o) h
theorem read8_of {l : Loc8} {s : State} (h : l.readable s = true) : read8 l s = .ok (l.look s) :=
  guarded_of l.look h
theorem read16_of {l : Loc16} {s : State} (h : l.readable s = true) : read16 l s = .ok (l.look s) :=
  guarded_of l.look h
theorem read24_of {l : Loc24} {s : State} (h : l.readable s = true) : read24 l s = .ok (l.look s) :=
  guarded_of l.look h
theorem write8_of {l : Loc8} {s : State} (v : Byte) (h : l.writable s = true) :
    write8 l v s = .ok ((), l.store v s) := guardedSet_of (l.store v) h
theorem write16_of {l : Loc16} {s : State} (v : Word) (h : l.writable s = true) :
    write16 l v s = .ok ((), l.store v s) := guardedSet_of (l.store v) h
theorem write24_of {l : Loc24} {s : State} (v : Long) (h : l.writable s = true) :
    write24 l v s = .ok ((), l.store v s) := guardedSet_of (l.store v) h
theorem readBit_of {s : State} {x : BitLoc} (b : Fin 8) (h : s.readsBit x = true) :
    readBit x b s = .ok (((s.locateBit x).lookBit b s).1.getLsbD b.val, ((s.locateBit x).lookBit b s).2) :=
  guarded_of (fun s => (((s.locateBit x).lookBit b s).1.getLsbD b.val, ((s.locateBit x).lookBit b s).2)) h

/-! ## Locating an operand changes only the record of the host's exchanges -/

theorem State.locate8_io (s : State) (o : Op8) : ∃ i, (s.locate8 o).2 = { s with io := i } := by
  cases o with
  | indP x => exact s.look16_io _
  | indG x => exact s.look24_io _
  | _ => exact ⟨s.io, rfl⟩

theorem State.locate16_io (s : State) (o : Op16) : ∃ i, (s.locate16 o).2 = { s with io := i } := by
  cases o with
  | indP x => exact s.look16_io _
  | indG x => exact s.look24_io _
  | _ => exact ⟨s.io, rfl⟩

theorem State.locate24_io (s : State) (o : Op24) : ∃ i, (s.locate24 o).2 = { s with io := i } := by
  cases o with
  | indG x => exact s.look24_io _
  | _ => exact ⟨s.io, rfl⟩

/-! ## Reading a place changes only that record and the count of free values -/

theorem Loc8.look_parts (l : Loc8) (s : State) : ∃ i d, (l.look s).2 = { s with io := i, draws := d } := by
  cases l with
  | mem a => obtain ⟨i, h⟩ := s.look_io a; exact ⟨i, s.draws, h⟩
  | pswh => exact ⟨s.io, s.draws + 1, rfl⟩
  | _ => exact ⟨s.io, s.draws, rfl⟩

theorem Loc16.look_parts (l : Loc16) (s : State) : ∃ i d, (l.look s).2 = { s with io := i, draws := d } := by
  cases l with
  | mem a => obtain ⟨i, h⟩ := s.look16_io a; exact ⟨i, s.draws, h⟩
  | pswSfr o =>
    obtain ⟨i, d, h⟩ := (s.sfrLoc o).look_parts s
    obtain ⟨i', d', h'⟩ := (s.sfrNext o).look_parts { s with io := i, draws := d }
    exact ⟨i', d', by simp only [Loc16.look, h, h']⟩
  | _ => exact ⟨s.io, s.draws, rfl⟩

theorem Loc24.look_io (l : Loc24) (s : State) : ∃ i, (l.look s).2 = { s with io := i } := by
  cases l with
  | mem a => exact s.look24_io a
  | _ => exact ⟨s.io, rfl⟩

/-! ## Writing a place -/

/-- `t` is `s` but for PSW, RAM, memory, extension registers, the record and the count of free values. -/
def State.DataOf (s t : State) : Prop :=
  ∃ p r m x i d, t = { s with psw := p, ram := r, mem := m, vutw := x, io := i, draws := d }

theorem State.DataOf.refl (s : State) : s.DataOf s := ⟨s.psw, s.ram, s.mem, s.vutw, s.io, s.draws, rfl⟩

theorem State.DataOf.trans {s t u : State} (h : s.DataOf t) (g : t.DataOf u) : s.DataOf u := by
  obtain ⟨_, _, _, _, _, _, rfl⟩ := h
  obtain ⟨p, r, m, x, i, d, rfl⟩ := g
  exact ⟨p, r, m, x, i, d, rfl⟩

theorem State.DataOf.sameControl {s t : State} (h : s.DataOf t) : s.sameControl t := by
  obtain ⟨_, _, _, _, _, _, rfl⟩ := h; rfl

theorem State.sameControl.dataOf {s t : State} (h : s.sameControl t) : s.DataOf t := ⟨_, _, _, _, _, _, h⟩

theorem State.DataOf.sameMap {s t : State} (h : s.DataOf t) : s.SameMap t := by
  obtain ⟨_, _, _, _, _, _, rfl⟩ := h; exact ⟨rfl, rfl⟩

theorem State.store_dataOf (s : State) (a : Long) (v : Byte) : s.DataOf (s.store a v) := by
  obtain ⟨r, m, i, h⟩ := s.store_parts a v; exact ⟨s.psw, r, m, s.vutw, i, s.draws, h⟩

theorem State.store16_dataOf (s : State) (a : Long) (w : Word) : s.DataOf (s.store16 a w) := by
  obtain ⟨r, m, i, h⟩ := s.store16_parts a w; exact ⟨s.psw, r, m, s.vutw, i, s.draws, h⟩

theorem State.store24_dataOf (s : State) (a : Long) (l : Long) : s.DataOf (s.store24 a l) := by
  obtain ⟨r, m, i, h⟩ := s.store24_parts a l; exact ⟨s.psw, r, m, s.vutw, i, s.draws, h⟩

theorem State.setRam8_dataOf (s : State) (k : Nat) (v : Byte) : s.DataOf (s.setRam8 k v) :=
  ⟨s.psw, _, s.mem, s.vutw, s.io, s.draws, rfl⟩

theorem Loc8.store_dataOf (l : Loc8) (v : Byte) (s : State) : s.DataOf (l.store v s) := by
  cases l with
  | mem a => exact s.store_dataOf a v
  | _ => exact ⟨_, _, _, _, _, _, rfl⟩

theorem Loc16.store_dataOf (l : Loc16) (w : Word) (s : State) : s.DataOf (l.store w s) := by
  cases l with
  | mem a => exact s.store16_dataOf a w
  | pswSfr o => exact (Loc8.store_dataOf _ _ s).trans (Loc8.store_dataOf _ _ _)
  | _ => exact ⟨_, _, _, _, _, _, rfl⟩

theorem State.setRg_dataOf (s : State) (g : RG) (l : Long) : s.DataOf (s.setRg g l) :=
  ⟨s.psw, _, s.mem, _, s.io, s.draws, rfl⟩

theorem State.bump_dataOf (s : State) (m : Mem) (n : Nat) : s.DataOf (s.bump m n) := by
  unfold State.bump
  split <;> first | exact State.setRg_dataOf _ _ _ | exact State.DataOf.refl _

theorem State.after8_dataOf (s : State) (o : Op8) : s.DataOf (s.after8 o) := by
  cases o <;> first | exact s.bump_dataOf _ _ | exact State.DataOf.refl _

theorem State.after16_dataOf (s : State) (o : Op16) : s.DataOf (s.after16 o) := by
  cases o <;> first | exact s.bump_dataOf _ _ | exact State.DataOf.refl _

theorem State.after24_dataOf (s : State) (o : Op24) : s.DataOf (s.after24 o) := by
  cases o <;> first | exact s.bump_dataOf _ _ | exact State.DataOf.refl _

theorem State.locate8_dataOf (s : State) (o : Op8) : s.DataOf (s.locate8 o).2 := by
  obtain ⟨i, h⟩ := s.locate8_io o; exact ⟨_, _, _, _, i, _, h⟩

theorem State.locate16_dataOf (s : State) (o : Op16) : s.DataOf (s.locate16 o).2 := by
  obtain ⟨i, h⟩ := s.locate16_io o; exact ⟨_, _, _, _, i, _, h⟩

theorem State.locate24_dataOf (s : State) (o : Op24) : s.DataOf (s.locate24 o).2 := by
  obtain ⟨i, h⟩ := s.locate24_io o; exact ⟨_, _, _, _, i, _, h⟩

theorem Loc8.look_dataOf (l : Loc8) (s : State) : s.DataOf (l.look s).2 := by
  obtain ⟨i, d, h⟩ := l.look_parts s; exact ⟨_, _, _, _, i, d, h⟩

theorem Loc16.look_dataOf (l : Loc16) (s : State) : s.DataOf (l.look s).2 := by
  obtain ⟨i, d, h⟩ := l.look_parts s; exact ⟨_, _, _, _, i, d, h⟩

theorem Loc24.look_dataOf (l : Loc24) (s : State) : s.DataOf (l.look s).2 := by
  obtain ⟨i, h⟩ := l.look_io s; exact ⟨_, _, _, _, i, _, h⟩

/-! ## Which bytes a write leaves alone -/

theorem State.keeps.refl (s : State) (f : Footprint) : s.keeps s f := ⟨fun _ _ => rfl, fun _ _ => rfl⟩

theorem State.keeps.trans {s t u : State} {f g : Footprint} (h : s.keeps t f) (k : t.keeps u g) :
    s.keeps u (f.and g) := by
  constructor
  · intro a ha
    simp only [Footprint.and, List.mem_append, not_or] at ha
    rw [k.1 a ha.2, h.1 a ha.1]
  · intro i hi
    simp only [Footprint.and, List.mem_append, not_or] at hi
    rw [k.2 i hi.2, h.2 i hi.1]

/-- A larger footprint keeps less. -/
theorem State.keeps.mono {s t : State} {f g : Footprint} (h : s.keeps t f) (hb : ∀ a ∈ f.bytes, a ∈ g.bytes)
    (hx : ∀ i ∈ f.exts, i ∈ g.exts) : s.keeps t g :=
  ⟨fun a ha => h.1 a fun x => ha (hb a x), fun i hi => h.2 i fun x => hi (hx i x)⟩

theorem State.keeps.of_nothing {s t : State} (h : s.keeps t Footprint.nothing) (f : Footprint) :
    s.keeps t f := h.mono (by simp [Footprint.nothing]) (by simp [Footprint.nothing])

theorem State.keeps_of_same {s t : State} (hc : s.SameMap t) (hr : t.ram = s.ram) (hm : t.mem = s.mem)
    (hx : t.vutw = s.vutw) (f : Footprint) : s.keeps t f :=
  ⟨fun a _ => State.peek_congr hc.1 hc.2 hr hm a, fun i _ => by rw [hx]⟩

theorem State.keeps_look (l : Loc8) (s : State) (f : Footprint) : s.keeps (l.look s).2 f := by
  obtain ⟨i, d, h⟩ := l.look_parts s; rw [h]; exact State.keeps_of_same ⟨rfl, rfl⟩ rfl rfl rfl f

theorem mem_bytesAt_one (a b : Long) : b ∈ bytesAt a 1 ↔ b = a := by
  simp [bytesAt, List.range_succ]

theorem mem_bytesAt_two (a b : Long) : b ∈ bytesAt a 2 ↔ b = a ∨ b = a + 1 := by
  simp [bytesAt, List.range_succ]

theorem mem_bytesAt_three (a b : Long) : b ∈ bytesAt a 3 ↔ b = a ∨ b = a + 1 ∨ b = a + 2 := by
  simp [bytesAt, List.range_succ]

theorem State.keeps_store (s : State) (a : Long) (v : Byte) : s.keeps (s.store a v) ⟨bytesAt a 1, []⟩ := by
  constructor
  · intro b hb
    exact State.peek_store v fun h => hb ((mem_bytesAt_one a b).mpr h)
  · intro i _
    obtain ⟨r, m, x, h⟩ := s.store_parts a v; rw [h]

theorem State.keeps_store16 (s : State) (a : Long) (w : Word) :
    s.keeps (s.store16 a w) ⟨bytesAt a 2, []⟩ := by
  constructor
  · intro b hb
    rw [mem_bytesAt_two, not_or] at hb
    exact State.peek_store16 w hb.1 hb.2
  · intro i _
    obtain ⟨r, m, x, h⟩ := s.store16_parts a w; rw [h]

theorem State.keeps_store24 (s : State) (a : Long) (l : Long) :
    s.keeps (s.store24 a l) ⟨bytesAt a 3, []⟩ := by
  constructor
  · intro b hb
    rw [mem_bytesAt_three, not_or, not_or] at hb
    exact State.peek_store24 l hb.1 hb.2.1 hb.2.2
  · intro i _
    obtain ⟨r, m, x, h⟩ := s.store24_parts a l; rw [h]

theorem State.keeps_setRam8 (s : State) {k : Nat} (v : Byte) (hk : k < 0x10000) :
    s.keeps (s.setRam8 k v) ⟨[s.ramAddr k], []⟩ :=
  ⟨fun a ha => State.peek_setRam8 v hk fun h => ha (by simp [h]), fun _ _ => rfl⟩

theorem State.ramAddr_congr {s t : State} (h : s.SameMap t) (k : Nat) : t.ramAddr k = s.ramAddr k := by
  rw [State.ramAddr, State.ramAddr, State.locBase_congr h.2]

theorem State.keeps_setRam16 (s : State) {k : Nat} (w : Word) (hk : k + 1 < 0x10000) :
    s.keeps (s.setRam16 k w) ⟨[s.ramAddr k, s.ramAddr (k + 1)], []⟩ :=
  (s.keeps_setRam8 (w.extractLsb' 0 8) (by omega)).trans ((s.setRam8 k (w.extractLsb' 0 8)).keeps_setRam8 _ hk)

theorem State.keeps_setR8 (s : State) (n : R8) (v : Byte) : s.keeps (s.setR8 n v) (s.footR8 n) :=
  s.keeps_setRam8 v (by have := regKey_range s.psw.rbs n; omega)

theorem State.keeps_setRpOf (s : State) (b : BitVec 3) (n : RP) (w : Word) :
    s.keeps (s.setRpOf b n w) (s.footRpOf b n) :=
  s.keeps_setRam16 w (by have := pairKey_range b n; omega)

theorem State.keeps_setRp (s : State) (n : RP) (w : Word) : s.keeps (s.setRp n w) (s.footRp n) :=
  s.keeps_setRpOf s.psw.rbs n w

theorem State.keeps_setExt (s : State) (e : R3) (v : Byte) :
    s.keeps (s.setExt e v) ⟨[], [extIdx s.psw.rbs e]⟩ := by
  constructor
  · intro a _
    exact State.peek_congr (s := s) (t := s.setExt e v) rfl rfl rfl rfl a
  · intro i hi
    have h : (extIdx s.psw.rbs e).val ≠ i.val := fun x => hi (by simp [Fin.ext x.symm])
    exact Vector.getElem_set_ne (Fin.isLt _) (Fin.isLt _) h

theorem State.keeps_setRg (s : State) (g : RG) (l : Long) : s.keeps (s.setRg g l) (s.footRg g) :=
  ((s.keeps_setRp g.pair _).trans ((s.setRp g.pair _).keeps_setExt g.ext _)).mono
    (by simp [Footprint.and, State.footRg]) (by simp [Footprint.and, State.footRg, State.footRp, State.footRpOf])

theorem State.keeps_bump (s : State) (m : Mem) (n : Nat) : s.keeps (s.bump m n) (s.footMem m) := by
  unfold State.bump State.footMem
  split <;> first | exact s.keeps_setRg _ _ | exact State.keeps.refl _ _

/-- The places an operand can have lie in internal RAM where they are registers. -/
def Loc8.inArea : Loc8 → Prop
  | .ram k => k < 0x10000
  | _ => True

theorem State.keeps_store8 (l : Loc8) (v : Byte) (s : State) (h : l.inArea) :
    s.keeps (l.store v s) (s.footLoc8 l) := by
  cases l with
  | ram k => exact s.keeps_setRam8 v h
  | mem a => exact s.keeps_store a v
  | ext i =>
    constructor
    · intro a _
      exact State.peek_congr (s := s) (t := { s with vutw := s.vutw.set i v }) rfl rfl rfl rfl a
    · intro j hj
      have h : i.val ≠ j.val := fun x => hj (by simp [State.footLoc8, Fin.ext x.symm])
      exact Vector.getElem_set_ne (Fin.isLt _) (Fin.isLt _) h
  | _ => exact State.keeps_of_same ⟨rfl, rfl⟩ rfl rfl rfl _

end Sys2Proof.Machine
end

