-- ==== Sys2Proof/Laws/Canonical.lean ====
section
/-! SUPPORT. Every operation on memory keeps the canonical form of both memories; reset's memory has it. -/

namespace Sys2Proof.Machine

/-- Both memories are in canonical form. -/
def State.wf (s : State) : Prop := s.ram.wf = true ∧ s.mem.wf = true

theorem State.reset_wf : State.reset.wf := ⟨rfl, rfl⟩

theorem State.wf_of_same {s t : State} (h : s.wf) (hr : t.ram = s.ram) (hm : t.mem = s.mem) : t.wf := by
  rw [State.wf, hr, hm]; exact h

theorem State.wf_setRam8 {s : State} (k : Nat) (v : Byte) (h : s.wf) : (s.setRam8 k v).wf :=
  ⟨Memory.wf_write k v h.1, h.2⟩

theorem State.wf_setRam16 {s : State} (k : Nat) (w : Word) (h : s.wf) : (s.setRam16 k w).wf :=
  State.wf_setRam8 _ _ (State.wf_setRam8 _ _ h)

theorem State.wf_setRg {s : State} (g : RG) (l : Long) (h : s.wf) : (s.setRg g l).wf :=
  State.wf_of_same (State.wf_setRam16 _ _ h) rfl rfl

theorem State.wf_storeAt {s : State} (p : Place) (v : Byte) (h : s.wf) : (s.storeAt p v).wf := by
  cases p with
  | ram k => exact State.wf_setRam8 _ _ h
  | sfr off =>
    simp only [State.storeAt]
    split
    · exact h
    · exact State.wf_of_same h rfl rfl
  | ext n => exact ⟨h.1, Memory.wf_write n v h.2⟩
  | _ => exact h

theorem State.wf_store {s : State} (a : Long) (v : Byte) (h : s.wf) : (s.store a v).wf := by
  rw [State.store]
  exact State.wf_storeAt _ v h

theorem State.wf_store16 {s : State} (a : Long) (w : Word) (h : s.wf) : (s.store16 a w).wf := by
  rw [State.store16]
  generalize s.sfrSpanW a 2 = o
  cases o with
  | some off => exact State.wf_of_same h rfl rfl
  | none => exact State.wf_store _ _ (State.wf_store _ _ h)

theorem State.wf_store24 {s : State} (a : Long) (l : Long) (h : s.wf) : (s.store24 a l).wf := by
  rw [State.store24]
  generalize s.sfrSpanW a 3 = o
  cases o with
  | some off => exact State.wf_of_same h rfl rfl
  | none => exact State.wf_store _ _ (State.wf_store _ _ (State.wf_store _ _ h))

theorem State.wf_look16 {s : State} (a : Long) (h : s.wf) : (s.look16 a).2.wf := by
  obtain ⟨i, e⟩ := s.look16_io a
  rw [e]; exact h

theorem State.wf_acknowledge {s : State} (vec : Nat) (ret : PAddr) (h : s.wf) : (s.acknowledge vec ret).wf := by
  have g := State.wf_store16 (s.sp - 2) (s.psw.frame ret) (State.wf_store16 (s.sp - 4) (ret.extractLsb' 0 16) h)
  have k := State.wf_look16 (BitVec.ofNat 24 vec) (State.wf_of_same (t := ((s.store16 (s.sp - 4)
    (ret.extractLsb' 0 16)).store16 (s.sp - 2) (s.psw.frame ret)).setSp (s.sp - 4)) g rfl rfl)
  rw [State.acknowledge]
  exact State.wf_of_same k rfl rfl

theorem State.wf_contextSwitch {s : State} (n : BitVec 3) (ret : PAddr) (h : s.wf) : (s.contextSwitch n ret).wf :=
  State.wf_of_same (State.wf_setRam16 _ _ (State.wf_setRam16 _ _ h)) rfl rfl

theorem State.wf_pokeAt {s : State} (p : Place) (v : Byte) (h : s.wf) : (s.pokeAt p v).wf := by
  cases p with
  | ram k => exact State.wf_setRam8 _ _ h
  | ext n => exact ⟨h.1, Memory.wf_write n v h.2⟩
  | _ => exact h

theorem State.wf_poke {s : State} (a : Long) (v : Byte) (h : s.wf) : (s.poke a v).wf := by
  rw [State.poke]
  exact State.wf_pokeAt _ v h

theorem State.wf_pokes {s : State} (ws : List (Long × Byte)) (h : s.wf) : (s.pokes ws).wf := by
  unfold State.pokes
  induction ws generalizing s with
  | nil => exact h
  | cons w ws ih => exact ih (State.wf_poke w.1 w.2 h)

theorem State.wf_placeByteAt {s : State} (p : Place) (b : Byte) (h : s.wf) : (s.placeByteAt p b).wf := by
  cases p with
  | ram k => exact State.wf_setRam8 _ _ h
  | rom n => exact ⟨h.1, Memory.wf_write n b h.2⟩
  | ext n => exact ⟨h.1, Memory.wf_write n b h.2⟩
  | _ => exact h

theorem State.wf_placeCode {s : State} (bs : List Byte) (p : PAddr) (h : s.wf) : (s.placeCode p bs).wf := by
  induction bs generalizing s p with
  | nil => exact h
  | cons b bs ih =>
    unfold State.placeCode
    exact ih (p + 1) (State.wf_placeByteAt _ b h)

end Sys2Proof.Machine
end

