-- ==== Sys2Proof/Laws/Pairs.lean ====
section
/-! SUPPORT. The two operands of an instruction located and read, said once per width. -/

namespace Sys2Proof

/-- The operand has no pointer in memory. -/
def Op8.direct : Op8 → Prop
  | .indP _ | .indG _ => False
  | _ => True

/-- The operand has no pointer in memory. -/
def Op16.direct : Op16 → Prop
  | .indP _ | .indG _ => False
  | _ => True

/-- The operand has no pointer in memory. -/
def Op24.direct : Op24 → Prop
  | .indG _ => False
  | _ => True

namespace Machine

theorem State.eaSaddr_congr {s t : State} (h : s.SameMap t) (x : Saddr) : t.eaSaddr x = s.eaSaddr x := by
  cases x <;> simp only [State.eaSaddr, State.locBase_congr h.2]

/-! ## 8-bit operands -/

theorem State.locate8_direct (st : State) {d : Op8} (h : d.direct) : (st.locate8 d).2 = st := by
  cases d <;> first | rfl | exact False.elim h

theorem State.locate8_io_congr (s : State) (i : List IoEvent) {o : Op8} (h : o.direct) :
    (({ s with io := i } : State).locate8 o).1 = (s.locate8 o).1 := by
  cases o with
  | mem m => cases m <;> first | rfl
  | saddr x => cases x <;> rfl
  | _ => first | rfl | exact False.elim h

/-- The source's place is the one it would have without the destination's pointer read: no instruction has
two indirect operands. -/
theorem State.second8 (st : State) (d s : Op8) (h : d.direct ∨ s.direct) :
    ((st.locate8 d).2.locate8 s).1 = (st.locate8 s).1 := by
  rcases h with h | h
  · rw [State.locate8_direct st h]
  · obtain ⟨i, e⟩ := st.locate8_io d
    rw [e]
    exact State.locate8_io_congr st i h

theorem State.pointerOk8_congr {s t : State} (h : s.SameMap t) (o : Op8) : t.pointerOk8 o = s.pointerOk8 o := by
  cases o <;>
    first
    | rfl
    | simp only [State.pointerOk8, State.eaSaddr_congr h, State.readableN_congr h.1 h.2]

/-- Two readable operands, at most one of them indirect, are both read. -/
theorem both8_of {st : State} {d s : Op8} (h : d.direct ∨ s.direct) (hd : st.reads8 d = true)
    (hs : st.reads8 s = true) : both8 d s st = .ok (st.operands8 d s) := by
  simp only [State.reads8, Bool.and_eq_true] at hd hs
  have m1 := (st.locate8_dataOf d).sameMap
  have p2 : (st.locate8 d).2.pointerOk8 s = true := by rw [State.pointerOk8_congr m1 s]; exact hs.1
  have m2 := (st.locate8_dataOf d).trans ((st.locate8 d).2.locate8_dataOf s)
  have r1 : (st.locate8 d).1.readable ((st.locate8 d).2.locate8 s).2 = true := by
    rw [Loc8.readable_congr m2.sameMap]; exact hd.2
  have m3 := m2.trans ((st.locate8 d).1.look_dataOf ((st.locate8 d).2.locate8 s).2)
  have r2 : ((st.locate8 d).2.locate8 s).1.readable
      ((st.locate8 d).1.look ((st.locate8 d).2.locate8 s).2).2 = true := by
    rw [Loc8.readable_congr m3.sameMap, State.second8 st d s h]; exact hs.2
  unfold both8
  rw [bind_of _ (loc8_of hd.1), bind_of _ (loc8_of p2), bind_of _ (read8_of r1), bind_of _ (read8_of r2)]
  rfl

theorem State.operands8_dataOf (st : State) (d s : Op8) : st.DataOf (st.operands8 d s).2 :=
  (((st.locate8_dataOf d).trans ((st.locate8 d).2.locate8_dataOf s)).trans (Loc8.look_dataOf _ _)).trans
    (Loc8.look_dataOf _ _)

theorem alu8Form_direct {d s : Op8} (h : alu8Form d s = true) : d.direct ∨ s.direct := by
  cases d <;> cases s <;> first | exact absurd h Bool.false_ne_true | exact .inl trivial | exact .inr trivial

theorem movForm_direct {d s : Op8} (h : movForm d s = true) : d.direct ∨ s.direct := by
  cases d <;> cases s <;> first | exact absurd h Bool.false_ne_true | exact .inl trivial | exact .inr trivial

theorem xchForm_direct {d s : Op8} (h : xchForm d s = true) : d.direct ∨ s.direct := by
  cases d <;> cases s <;> first | exact absurd h Bool.false_ne_true | exact .inl trivial

/-! ## 16-bit operands -/

theorem State.locate16_direct (st : State) {d : Op16} (h : d.direct) : (st.locate16 d).2 = st := by
  cases d <;> first | rfl | exact False.elim h

theorem State.locate16_io_congr (s : State) (i : List IoEvent) {o : Op16} (h : o.direct) :
    (({ s with io := i } : State).locate16 o).1 = (s.locate16 o).1 := by
  cases o with
  | mem m => cases m <;> first | rfl
  | saddr x => cases x <;> rfl
  | _ => first | rfl | exact False.elim h

/-- The source's place is the one it would have without the destination's pointer read: no instruction has
two indirect operands. -/
theorem State.second16 (st : State) (d s : Op16) (h : d.direct ∨ s.direct) :
    ((st.locate16 d).2.locate16 s).1 = (st.locate16 s).1 := by
  rcases h with h | h
  · rw [State.locate16_direct st h]
  · obtain ⟨i, e⟩ := st.locate16_io d
    rw [e]
    exact State.locate16_io_congr st i h

theorem State.pointerOk16_congr {s t : State} (h : s.SameMap t) (o : Op16) : t.pointerOk16 o = s.pointerOk16 o := by
  cases o <;>
    first
    | rfl
    | simp only [State.pointerOk16, State.eaSaddr_congr h, State.readableN_congr h.1 h.2]

/-- Two readable operands, at most one of them indirect, are both read. -/
theorem both16_of {st : State} {d s : Op16} (h : d.direct ∨ s.direct) (hd : st.reads16 d = true)
    (hs : st.reads16 s = true) : both16 d s st = .ok (st.operands16 d s) := by
  simp only [State.reads16, Bool.and_eq_true] at hd hs
  have m1 := (st.locate16_dataOf d).sameMap
  have p2 : (st.locate16 d).2.pointerOk16 s = true := by rw [State.pointerOk16_congr m1 s]; exact hs.1
  have m2 := (st.locate16_dataOf d).trans ((st.locate16 d).2.locate16_dataOf s)
  have r1 : (st.locate16 d).1.readable ((st.locate16 d).2.locate16 s).2 = true := by
    rw [Loc16.readable_congr m2.sameMap]; exact hd.2
  have m3 := m2.trans ((st.locate16 d).1.look_dataOf ((st.locate16 d).2.locate16 s).2)
  have r2 : ((st.locate16 d).2.locate16 s).1.readable
      ((st.locate16 d).1.look ((st.locate16 d).2.locate16 s).2).2 = true := by
    rw [Loc16.readable_congr m3.sameMap, State.second16 st d s h]; exact hs.2
  unfold both16
  rw [bind_of _ (loc16_of hd.1), bind_of _ (loc16_of p2), bind_of _ (read16_of r1), bind_of _ (read16_of r2)]
  rfl

theorem State.operands16_dataOf (st : State) (d s : Op16) : st.DataOf (st.operands16 d s).2 :=
  (((st.locate16_dataOf d).trans ((st.locate16 d).2.locate16_dataOf s)).trans (Loc16.look_dataOf _ _)).trans
    (Loc16.look_dataOf _ _)

theorem alu16Form_direct {d s : Op16} (h : alu16Form d s = true) : d.direct ∨ s.direct := by
  cases d <;> cases s <;> first | exact absurd h Bool.false_ne_true | exact .inl trivial

theorem movwForm_direct {d s : Op16} (h : movwForm d s = true) : d.direct ∨ s.direct := by
  cases d <;> cases s <;> first | exact absurd h Bool.false_ne_true | exact .inl trivial | exact .inr trivial

theorem xchwForm_direct {d s : Op16} (h : xchwForm d s = true) : d.direct ∨ s.direct := by
  cases d <;> cases s <;> first | exact absurd h Bool.false_ne_true | exact .inl trivial

/-! ## 24-bit operands -/

theorem State.locate24_direct (st : State) {d : Op24} (h : d.direct) : (st.locate24 d).2 = st := by
  cases d <;> first | rfl | exact False.elim h

theorem State.locate24_io_congr (s : State) (i : List IoEvent) {o : Op24} (h : o.direct) :
    (({ s with io := i } : State).locate24 o).1 = (s.locate24 o).1 := by
  cases o with
  | mem m => cases m <;> first | rfl
  | saddr x => cases x <;> rfl
  | _ => first | rfl | exact False.elim h

/-- The source's place is the one it would have without the destination's pointer read: no instruction has
two indirect operands. -/
theorem State.second24 (st : State) (d s : Op24) (h : d.direct ∨ s.direct) :
    ((st.locate24 d).2.locate24 s).1 = (st.locate24 s).1 := by
  rcases h with h | h
  · rw [State.locate24_direct st h]
  · obtain ⟨i, e⟩ := st.locate24_io d
    rw [e]
    exact State.locate24_io_congr st i h

theorem State.pointerOk24_congr {s t : State} (h : s.SameMap t) (o : Op24) : t.pointerOk24 o = s.pointerOk24 o := by
  cases o <;>
    first
    | rfl
    | simp only [State.pointerOk24, State.eaSaddr_congr h, State.readableN_congr h.1 h.2]

/-- Two readable operands, at most one of them indirect, are both read. -/
theorem both24_of {st : State} {d s : Op24} (h : d.direct ∨ s.direct) (hd : st.reads24 d = true)
    (hs : st.reads24 s = true) : both24 d s st = .ok (st.operands24 d s) := by
  simp only [State.reads24, Bool.and_eq_true] at hd hs
  have m1 := (st.locate24_dataOf d).sameMap
  have p2 : (st.locate24 d).2.pointerOk24 s = true := by rw [State.pointerOk24_congr m1 s]; exact hs.1
  have m2 := (st.locate24_dataOf d).trans ((st.locate24 d).2.locate24_dataOf s)
  have r1 : (st.locate24 d).1.readable ((st.locate24 d).2.locate24 s).2 = true := by
    rw [Loc24.readable_congr m2.sameMap]; exact hd.2
  have m3 := m2.trans ((st.locate24 d).1.look_dataOf ((st.locate24 d).2.locate24 s).2)
  have r2 : ((st.locate24 d).2.locate24 s).1.readable
      ((st.locate24 d).1.look ((st.locate24 d).2.locate24 s).2).2 = true := by
    rw [Loc24.readable_congr m3.sameMap, State.second24 st d s h]; exact hs.2
  unfold both24
  rw [bind_of _ (loc24_of hd.1), bind_of _ (loc24_of p2), bind_of _ (read24_of r1), bind_of _ (read24_of r2)]
  rfl

theorem State.operands24_dataOf (st : State) (d s : Op24) : st.DataOf (st.operands24 d s).2 :=
  (((st.locate24_dataOf d).trans ((st.locate24 d).2.locate24_dataOf s)).trans (Loc24.look_dataOf _ _)).trans
    (Loc24.look_dataOf _ _)

theorem alu24Form_direct {d s : Op24} (h : alu24Form d s = true) : d.direct ∨ s.direct := by
  cases d <;> cases s <;> first | exact absurd h Bool.false_ne_true | exact .inl trivial

theorem movgForm_direct {d s : Op24} (h : movgForm d s = true) : d.direct ∨ s.direct := by
  cases d <;> cases s <;> first | exact absurd h Bool.false_ne_true | exact .inl trivial | exact .inr trivial

end Machine

end Sys2Proof
end

