-- ==== Sys2Proof/Laws/PerInstr.lean ====
section
/-! SUPPORT. One lemma per constructor of `Instr`: every well-formed instruction has an encoding, of at least
one and at most seven bytes (30_encoding R170). -/

namespace Sys2Proof.Laws

open Sys2Proof

/-- A list of one to seven bytes. -/
def OneToSeven (bs : List Byte) : Prop := 1 ≤ bs.length ∧ bs.length ≤ 7

theorem oneToSeven_of {bs : List Byte} (h : 1 ≤ bs.length ∧ bs.length ≤ 7) : OneToSeven bs := h

theorem r8_pre_length (n : R8) : n.pre.length ≤ 1 := by cases n <;> decide

theorem saddr_pre_length (x : Saddr) : x.pre.length ≤ 1 := by cases x <;> simp [Saddr.pre]

theorem encMem_length (st : Bool) (op : Nat) (m : Mem) : 2 ≤ (encMem st op m).length ∧ (encMem st op m).length ≤ 5 := by
  cases m <;> simp [encMem, le24]

theorem encMovRInd_length (st : Bool) (r : RInd) :
    1 ≤ (encMovRInd st r).length ∧ (encMovRInd st r).length ≤ 5 := by
  unfold encMovRInd
  split
  · simp
  · have := encMem_length st 0 (.rind r)
    omega

theorem encInd_length (st g : Bool) (op : Nat) (x : Saddr) :
    3 ≤ (encInd st g op x).length ∧ (encInd st g op x).length ≤ 4 := by
  cases x <;> simp [encInd, Saddr.pre]

theorem encBit_length (op : Nat) (x : BitLoc) (b : Fin 8) :
    2 ≤ (encBit op x b).length ∧ (encBit op x b).length ≤ 6 := by
  cases x with
  | saddr y =>
    have := saddr_pre_length y
    simp only [encBit]
    split
    · simp; omega
    · split
      · simp; omega
      · split <;> simp <;> omega
  | _ => simp [encBit, le16, hw24]

theorem encAlu8_length (k : Nat) (d s : Op8) (h : alu8Form d s = true) : OneToSeven (encAlu8 k d s) := by
  cases d <;> cases s <;> (try exact absurd h Bool.false_ne_true) <;> apply oneToSeven_of <;>
    simp only [encAlu8, enc2A, le16, hw24, List.length_append, List.length_cons, List.length_nil] <;>
    first
    | omega
    | (rename_i x _; have := saddr_pre_length x; omega)
    | (rename_i _ x; have := r8_pre_length x; omega)
    | (rename_i x; have := encMem_length false (8 + k) x; omega)
    | (rename_i x; have := encMem_length true (8 + k) x; omega)
    | (rename_i x; have := encInd_length false false (8 + k) x; omega)
    | (rename_i x; have := encInd_length true false (8 + k) x; omega)
    | (rename_i x; have := encInd_length false true (8 + k) x; omega)
    | (rename_i x; have := encInd_length true true (8 + k) x; omega)

theorem encAlu16_length (k x : Nat) (d s : Op16) (h : alu16Form d s = true) : OneToSeven (encAlu16 k x d s) := by
  cases d <;> cases s <;> (try exact absurd h Bool.false_ne_true) <;> apply oneToSeven_of <;>
    simp only [encAlu16, enc2A, le16, List.length_append, List.length_cons, List.length_nil] <;>
    first
    | omega
    | (rename_i y _; have := saddr_pre_length y; omega)

theorem encAlu24_length (k : Nat) (d s : Op24) (h : alu24Form d s = true) : OneToSeven (encAlu24 k d s) := by
  cases d <;> cases s <;> (try exact absurd h Bool.false_ne_true) <;> simp [OneToSeven, encAlu24, le24]

theorem encInc_length (k : Nat) (o : Op8) (h : incForm o = true) : OneToSeven (encInc k o) := by
  cases o <;> simp [incForm] at h
  · rename_i n; have := r8_pre_length n; simp [OneToSeven, encInc]; omega
  · rename_i x; have := saddr_pre_length x; simp [OneToSeven, encInc]; omega

theorem encIncw_length (k : Nat) (o : Op16) (h : incwForm o = true) : OneToSeven (encIncw k o) := by
  cases o <;> simp [incwForm] at h
  · simp only [OneToSeven, encIncw]; split <;> simp
  · rename_i x; have := saddr_pre_length x; simp [OneToSeven, encIncw]; omega

theorem encIncg_length (k : Nat) (o : Op24) (h : incgForm o = true) : OneToSeven (encIncg k o) := by
  cases o <;> simp [incgForm] at h <;> simp [OneToSeven, encIncg]

theorem encShift_length (b1 : Byte) (tt : Nat) (n : R8) (c : Fin 8) : OneToSeven (encShift b1 tt n c) := by
  have := r8_pre_length n
  simp [OneToSeven, encShift]; omega

theorem encBitDst_length (op : Nat) (b1 : Byte) (t : BitDst) : OneToSeven (encBitDst op b1 t) := by
  cases t with
  | cy => simp [OneToSeven, encBitDst]
  | bit x b => have := encBit_length op x b; simp only [OneToSeven, encBitDst]; omega

theorem encStack_length (k : Nat) (o : StackOp) : OneToSeven (encStack k o) := by
  cases o <;> simp [OneToSeven, encStack]

theorem encTarget_length (c : Nat) (t : Target) (h : c = 1 → callForm t = true) : OneToSeven (encTarget c t) := by
  cases t <;> simp [OneToSeven, encTarget, le16]
  by_cases hc : c = 1
  · simp [callForm] at h; exact absurd hc h
  · simp [hc]

/-- The family: what holds of every instruction's encoding. -/
def Encodable.Statement (i : Instr) : Prop :=
  i.wf = true → ∀ o : Opcodes, OneToSeven (encode o i)

theorem encMov_mem_length (m : Mem) :
    OneToSeven (encMov .a (.mem m)) ∧ OneToSeven (encMov (.mem m) .a) := by
  cases m with
  | rind r =>
    have h := encMovRInd_length false r
    have g := encMovRInd_length true r
    exact ⟨⟨h.1, Nat.le_trans h.2 (by decide)⟩, ⟨g.1, Nat.le_trans g.2 (by decide)⟩⟩
  | based r off =>
    have h := encMem_length false 0 (.based r off)
    have g := encMem_length true 0 (.based r off)
    exact ⟨⟨Nat.le_of_succ_le h.1, Nat.le_trans h.2 (by decide)⟩, ⟨Nat.le_of_succ_le g.1, Nat.le_trans g.2 (by decide)⟩⟩
  | indexed r base =>
    have h := encMem_length false 0 (.indexed r base)
    have g := encMem_length true 0 (.indexed r base)
    exact ⟨⟨Nat.le_of_succ_le h.1, Nat.le_trans h.2 (by decide)⟩, ⟨Nat.le_of_succ_le g.1, Nat.le_trans g.2 (by decide)⟩⟩
  | bidx x =>
    have h := encMem_length false 0 (.bidx x)
    have g := encMem_length true 0 (.bidx x)
    exact ⟨⟨Nat.le_of_succ_le h.1, Nat.le_trans h.2 (by decide)⟩, ⟨Nat.le_of_succ_le g.1, Nat.le_trans g.2 (by decide)⟩⟩

theorem encMov_length (d s : Op8) (h : movForm d s = true) : OneToSeven (encMov d s) := by
  cases d <;> cases s <;> (try exact absurd h Bool.false_ne_true) <;>
    first
    | exact (encMov_mem_length _).1
    | exact (encMov_mem_length _).2
    | (apply oneToSeven_of; delta encMov;
       simp only [enc2A, le16, hw24, List.length_append, List.length_cons, List.length_nil]
       first
       | omega
       | (rename_i x _; have := saddr_pre_length x; omega)
       | (rename_i x; have := saddr_pre_length x; omega)
       | (rename_i n; have := r8_pre_length n; omega)
       | (rename_i n _; have := r8_pre_length n; omega)
       | (rename_i x; have := encInd_length false true 0 x; omega)
       | (rename_i x; have := encInd_length true true 0 x; omega))

theorem Encodable.mov (d : Op8) (s : Op8) : Encodable.Statement (.mov d s) :=
  fun h _ => encMov_length d s h

theorem Encodable.movStbc (nb b : Byte) : Encodable.Statement (.movStbc nb b) :=
  fun _ _ => by simp [OneToSeven, encode]

theorem Encodable.movWdm (nb b : Byte) : Encodable.Statement (.movWdm nb b) :=
  fun _ _ => by simp [OneToSeven, encode]

theorem Encodable.movw (d s : Op16) : Encodable.Statement (.movw d s) :=
  fun h _ => by
  change OneToSeven (encMovw d s)
  change movwForm d s = true at h
  cases d <;> cases s <;> (try exact absurd h Bool.false_ne_true) <;> apply oneToSeven_of <;>
    simp only [encMovw, enc2A, le16, hw24, List.length_append, List.length_cons, List.length_nil] <;>
    first
    | omega
    | (rename_i x _; have := saddr_pre_length x; omega)
    | (rename_i x; have := saddr_pre_length x; omega)
    | (rename_i x; have := encInd_length false false 1 x; omega)
    | (rename_i x; have := encInd_length false true 1 x; omega)
    | (rename_i x; have := encInd_length true false 1 x; omega)
    | (rename_i x; have := encInd_length true true 1 x; omega)
    | (rename_i x; have := encMem_length false 1 x; omega)
    | (rename_i x; have := encMem_length true 1 x; omega)

theorem Encodable.movg (d s : Op24) : Encodable.Statement (.movg d s) :=
  fun h _ => by
  change OneToSeven (encMovg d s)
  change movgForm d s = true at h
  cases d <;> cases s <;> (try exact absurd h Bool.false_ne_true) <;> apply oneToSeven_of <;>
    simp only [encMovg, le24, hw24, List.length_append, List.length_cons, List.length_nil] <;>
    first
    | omega
    | (rename_i x _; have := saddr_pre_length x; omega)
    | (rename_i x; have := saddr_pre_length x; omega)
    | (rename_i x; have := encInd_length false true 2 x; omega)
    | (rename_i x _; have := encInd_length true true 2 x; omega)
    | (rename_i x; have := encMem_length false 2 x; omega)
    | (rename_i x _; have := encMem_length true 2 x; omega)

theorem Encodable.xch (d s : Op8) : Encodable.Statement (.xch d s) :=
  fun h _ => by
  change OneToSeven (encXch d s)
  change xchForm d s = true at h
  cases d <;> cases s <;> (try exact absurd h Bool.false_ne_true) <;> apply oneToSeven_of <;>
    simp only [encXch, enc2A, le16, hw24, List.length_append, List.length_cons, List.length_nil] <;>
    first
    | omega
    | (rename_i x; have := saddr_pre_length x; omega)
    | (rename_i n; have := r8_pre_length n; omega)
    | (rename_i x; have := encInd_length false true 4 x; omega)
    | (rename_i x; have := encMem_length false 4 x; omega)

theorem Encodable.xchw (d s : Op16) : Encodable.Statement (.xchw d s) :=
  fun h _ => by
  change OneToSeven (encXchw d s)
  change xchwForm d s = true at h
  cases d <;> cases s <;> (try exact absurd h Bool.false_ne_true) <;> apply oneToSeven_of <;>
    simp only [encXchw, enc2A, le16, hw24, List.length_append, List.length_cons, List.length_nil] <;>
    first
    | omega
    | (rename_i x; have := saddr_pre_length x; omega)
    | (rename_i x; have := encInd_length false false 5 x; omega)
    | (rename_i x; have := encInd_length false true 5 x; omega)
    | (rename_i x; have := encMem_length false 5 x; omega)

theorem Encodable.add (d s : Op8) : Encodable.Statement (.add d s) :=
  fun h _ => encAlu8_length _ d s h

theorem Encodable.addc (d s : Op8) : Encodable.Statement (.addc d s) :=
  fun h _ => encAlu8_length _ d s h

theorem Encodable.sub (d s : Op8) : Encodable.Statement (.sub d s) :=
  fun h _ => encAlu8_length _ d s h

theorem Encodable.subc (d s : Op8) : Encodable.Statement (.subc d s) :=
  fun h _ => encAlu8_length _ d s h

theorem Encodable.cmp (d s : Op8) : Encodable.Statement (.cmp d s) :=
  fun h _ => encAlu8_length _ d s h

theorem Encodable.and (d s : Op8) : Encodable.Statement (.and d s) :=
  fun h _ => encAlu8_length _ d s h

theorem Encodable.or (d s : Op8) : Encodable.Statement (.or d s) :=
  fun h _ => encAlu8_length _ d s h

theorem Encodable.xor (d s : Op8) : Encodable.Statement (.xor d s) :=
  fun h _ => encAlu8_length _ d s h

theorem Encodable.addw (d s : Op16) : Encodable.Statement (.addw d s) :=
  fun h _ => encAlu16_length _ _ d s h

theorem Encodable.subw (d s : Op16) : Encodable.Statement (.subw d s) :=
  fun h _ => encAlu16_length _ _ d s h

theorem Encodable.cmpw (d s : Op16) : Encodable.Statement (.cmpw d s) :=
  fun h _ => encAlu16_length _ _ d s h

theorem Encodable.addg (d s : Op24) : Encodable.Statement (.addg d s) :=
  fun h _ => encAlu24_length _ d s h

theorem Encodable.subg (d s : Op24) : Encodable.Statement (.subg d s) :=
  fun h _ => encAlu24_length _ d s h

theorem Encodable.mulu (n : R8) : Encodable.Statement (.mulu n) :=
  fun _ _ => by
  have := r8_pre_length n
  simp only [OneToSeven, encode, List.length_append, List.length_cons, List.length_nil]; omega

theorem Encodable.muluw (n : RP) : Encodable.Statement (.muluw n) :=
  fun _ _ => by simp [OneToSeven, encode]

theorem Encodable.mulw (n : RP) : Encodable.Statement (.mulw n) :=
  fun _ _ => by simp [OneToSeven, encode]

theorem Encodable.divuw (n : R8) : Encodable.Statement (.divuw n) :=
  fun _ _ => by
  have := r8_pre_length n
  simp only [OneToSeven, encode, List.length_append, List.length_cons, List.length_nil]; omega

theorem Encodable.divux (n : RP) : Encodable.Statement (.divux n) :=
  fun _ _ => by simp [OneToSeven, encode]

theorem Encodable.macw (c : Byte) : Encodable.Statement (.macw c) :=
  fun _ _ => by simp [OneToSeven, encode]

theorem Encodable.macsw (c : Byte) : Encodable.Statement (.macsw c) :=
  fun _ _ => by simp [OneToSeven, encode]

theorem Encodable.sacw : Encodable.Statement .sacw :=
  fun _ _ => by simp [OneToSeven, encode]

theorem Encodable.inc (o : Op8) : Encodable.Statement (.inc o) :=
  fun h _ => encInc_length _ o h

theorem Encodable.dec (o : Op8) : Encodable.Statement (.dec o) :=
  fun h _ => encInc_length _ o h

theorem Encodable.incw (o : Op16) : Encodable.Statement (.incw o) :=
  fun h _ => encIncw_length _ o h

theorem Encodable.decw (o : Op16) : Encodable.Statement (.decw o) :=
  fun h _ => encIncw_length _ o h

theorem Encodable.incg (o : Op24) : Encodable.Statement (.incg o) :=
  fun h _ => encIncg_length _ o h

theorem Encodable.decg (o : Op24) : Encodable.Statement (.decg o) :=
  fun h _ => encIncg_length _ o h

theorem Encodable.adjba : Encodable.Statement .adjba :=
  fun _ _ => by simp [OneToSeven, encode]

theorem Encodable.adjbs : Encodable.Statement .adjbs :=
  fun _ _ => by simp [OneToSeven, encode]

theorem Encodable.cvtbw : Encodable.Statement .cvtbw :=
  fun _ _ => by simp [OneToSeven, encode]

theorem Encodable.ror (n : R8) (c : Fin 8) : Encodable.Statement (.ror n c) :=
  fun _ _ => encShift_length _ _ n c

theorem Encodable.rol (n : R8) (c : Fin 8) : Encodable.Statement (.rol n c) :=
  fun _ _ => encShift_length _ _ n c

theorem Encodable.rorc (n : R8) (c : Fin 8) : Encodable.Statement (.rorc n c) :=
  fun _ _ => encShift_length _ _ n c

theorem Encodable.rolc (n : R8) (c : Fin 8) : Encodable.Statement (.rolc n c) :=
  fun _ _ => encShift_length _ _ n c

theorem Encodable.shr (n : R8) (c : Fin 8) : Encodable.Statement (.shr n c) :=
  fun _ _ => encShift_length _ _ n c

theorem Encodable.shl (n : R8) (c : Fin 8) : Encodable.Statement (.shl n c) :=
  fun _ _ => encShift_length _ _ n c

theorem Encodable.shrw (n : RP) (c : Fin 8) : Encodable.Statement (.shrw n c) :=
  fun _ _ => by simp [OneToSeven, encode, encShiftW]

theorem Encodable.shlw (n : RP) (c : Fin 8) : Encodable.Statement (.shlw n c) :=
  fun _ _ => by simp [OneToSeven, encode, encShiftW]

theorem Encodable.ror4 (m : Mem3) : Encodable.Statement (.ror4 m) :=
  fun _ _ => by simp [OneToSeven, encode]

theorem Encodable.rol4 (m : Mem3) : Encodable.Statement (.rol4 m) :=
  fun _ _ => by simp [OneToSeven, encode]

theorem Encodable.mov1Cy (x : BitLoc) (b : Fin 8) : Encodable.Statement (.mov1Cy x b) :=
  fun _ _ => by
  have := encBit_length 0 x b
  simp only [OneToSeven, encode]; omega

theorem Encodable.mov1To (x : BitLoc) (b : Fin 8) : Encodable.Statement (.mov1To x b) :=
  fun _ _ => by
  have := encBit_length 1 x b
  simp only [OneToSeven, encode]; omega

theorem Encodable.and1 (neg : Bool) (x : BitLoc) (b : Fin 8) : Encodable.Statement (.and1 neg x b) :=
  fun _ _ => by
  have := encBit_length (if neg then 3 else 2) x b
  simp only [OneToSeven, encode]; omega

theorem Encodable.or1 (neg : Bool) (x : BitLoc) (b : Fin 8) : Encodable.Statement (.or1 neg x b) :=
  fun _ _ => by
  have := encBit_length (if neg then 5 else 4) x b
  simp only [OneToSeven, encode]; omega

theorem Encodable.xor1 (x : BitLoc) (b : Fin 8) : Encodable.Statement (.xor1 x b) :=
  fun _ _ => by
  have := encBit_length 6 x b
  simp only [OneToSeven, encode]; omega

theorem Encodable.not1 (t : BitDst) : Encodable.Statement (.not1 t) :=
  fun _ _ => encBitDst_length _ _ t

theorem Encodable.set1 (t : BitDst) : Encodable.Statement (.set1 t) :=
  fun _ _ => encBitDst_length _ _ t

theorem Encodable.clr1 (t : BitDst) : Encodable.Statement (.clr1 t) :=
  fun _ _ => encBitDst_length _ _ t

theorem Encodable.push (o : StackOp) : Encodable.Statement (.push o) :=
  fun _ _ => encStack_length _ o

theorem Encodable.pushu (p : Byte) : Encodable.Statement (.pushu p) :=
  fun _ _ => by simp [OneToSeven, encode]

theorem Encodable.pop (o : StackOp) : Encodable.Statement (.pop o) :=
  fun _ _ => encStack_length _ o

theorem Encodable.popu (p : Byte) : Encodable.Statement (.popu p) :=
  fun _ _ => by simp [OneToSeven, encode]

theorem Encodable.addwg (w : Word) : Encodable.Statement (.addwg w) :=
  fun _ _ => by simp [OneToSeven, encode, le16]

theorem Encodable.subwg (w : Word) : Encodable.Statement (.subwg w) :=
  fun _ _ => by simp [OneToSeven, encode, le16]

theorem Encodable.call (t : Target) : Encodable.Statement (.call t) :=
  fun h _ => encTarget_length 1 t fun _ => h

theorem Encodable.callf (a : BitVec 11) : Encodable.Statement (.callf a) :=
  fun _ _ => by simp [OneToSeven, encode]

theorem Encodable.callt (t : Fin 32) : Encodable.Statement (.callt t) :=
  fun _ _ => by simp [OneToSeven, encode]

theorem Encodable.brk : Encodable.Statement .brk :=
  fun _ _ => by simp [OneToSeven, encode]

theorem Encodable.brkcs (n : Fin 8) : Encodable.Statement (.brkcs n) :=
  fun _ _ => by simp [OneToSeven, encode]

theorem Encodable.ret : Encodable.Statement .ret :=
  fun _ _ => by simp [OneToSeven, encode]

theorem Encodable.reti : Encodable.Statement .reti :=
  fun _ _ => by simp [OneToSeven, encode]

theorem Encodable.retb : Encodable.Statement .retb :=
  fun _ _ => by simp [OneToSeven, encode]

theorem Encodable.retcs (w : Word) : Encodable.Statement (.retcs w) :=
  fun _ _ => by simp [OneToSeven, encode, le16]

theorem Encodable.retcsb (w : Word) : Encodable.Statement (.retcsb w) :=
  fun _ _ => by simp [OneToSeven, encode, le16]

theorem Encodable.br (t : Target) : Encodable.Statement (.br t) :=
  fun _ _ => encTarget_length 0 t fun h => absurd h (by decide)

theorem Encodable.bnz (d : Byte) : Encodable.Statement (.bnz d) :=
  fun _ _ => by simp [OneToSeven, encode]

theorem Encodable.bne (d : Byte) : Encodable.Statement (.bne d) :=
  fun _ _ => by simp [OneToSeven, encode]

theorem Encodable.bz (d : Byte) : Encodable.Statement (.bz d) :=
  fun _ _ => by simp [OneToSeven, encode]

theorem Encodable.be (d : Byte) : Encodable.Statement (.be d) :=
  fun _ _ => by simp [OneToSeven, encode]

theorem Encodable.bnc (d : Byte) : Encodable.Statement (.bnc d) :=
  fun _ _ => by simp [OneToSeven, encode]

theorem Encodable.bnl (d : Byte) : Encodable.Statement (.bnl d) :=
  fun _ _ => by simp [OneToSeven, encode]

theorem Encodable.bc (d : Byte) : Encodable.Statement (.bc d) :=
  fun _ _ => by simp [OneToSeven, encode]

theorem Encodable.bl (d : Byte) : Encodable.Statement (.bl d) :=
  fun _ _ => by simp [OneToSeven, encode]

theorem Encodable.bnv (d : Byte) : Encodable.Statement (.bnv d) :=
  fun _ _ => by simp [OneToSeven, encode]

theorem Encodable.bpo (d : Byte) : Encodable.Statement (.bpo d) :=
  fun _ _ => by simp [OneToSeven, encode]

theorem Encodable.bv (d : Byte) : Encodable.Statement (.bv d) :=
  fun _ _ => by simp [OneToSeven, encode]

theorem Encodable.bpe (d : Byte) : Encodable.Statement (.bpe d) :=
  fun _ _ => by simp [OneToSeven, encode]

theorem Encodable.bp (d : Byte) : Encodable.Statement (.bp d) :=
  fun _ _ => by simp [OneToSeven, encode]

theorem Encodable.bn (d : Byte) : Encodable.Statement (.bn d) :=
  fun _ _ => by simp [OneToSeven, encode]

theorem Encodable.blt (d : Byte) : Encodable.Statement (.blt d) :=
  fun _ _ => by simp [OneToSeven, encode]

theorem Encodable.bge (d : Byte) : Encodable.Statement (.bge d) :=
  fun _ _ => by simp [OneToSeven, encode]

theorem Encodable.ble (d : Byte) : Encodable.Statement (.ble d) :=
  fun _ _ => by simp [OneToSeven, encode]

theorem Encodable.bgt (d : Byte) : Encodable.Statement (.bgt d) :=
  fun _ _ => by simp [OneToSeven, encode]

theorem Encodable.bnh (d : Byte) : Encodable.Statement (.bnh d) :=
  fun _ _ => by simp [OneToSeven, encode]

theorem Encodable.bh (d : Byte) : Encodable.Statement (.bh d) :=
  fun _ _ => by simp [OneToSeven, encode]

theorem Encodable.bf (x : BitLoc) (b : Fin 8) (d : Byte) : Encodable.Statement (.bf x b d) :=
  fun _ _ => by
  have := encBit_length 10 x b
  simp only [OneToSeven, encode, List.length_append, List.length_cons, List.length_nil]; omega

theorem Encodable.bt (x : BitLoc) (b : Fin 8) (d : Byte) : Encodable.Statement (.bt x b d) :=
  fun _ _ => by
  have := encBit_length 11 x b
  simp only [OneToSeven, encode, List.length_append, List.length_cons, List.length_nil]; omega

theorem Encodable.btclr (x : BitLoc) (b : Fin 8) (d : Byte) : Encodable.Statement (.btclr x b d) :=
  fun _ _ => by
  have := encBit_length 13 x b
  simp only [OneToSeven, encode, List.length_append, List.length_cons, List.length_nil]; omega

theorem Encodable.bfset (x : BitLoc) (b : Fin 8) (d : Byte) : Encodable.Statement (.bfset x b d) :=
  fun _ _ => by
  have := encBit_length 12 x b
  simp only [OneToSeven, encode, List.length_append, List.length_cons, List.length_nil]; omega

theorem Encodable.dbnz (t : LoopReg) (d : Byte) : Encodable.Statement (.dbnz t d) :=
  fun _ _ => by
  cases t with
  | saddr x =>
    have := saddr_pre_length x
    simp only [OneToSeven, encode, List.length_append, List.length_cons, List.length_nil]; omega
  | _ => simp [OneToSeven, encode]

theorem Encodable.location (lo hi : Byte) : Encodable.Statement (.location lo hi) :=
  fun _ _ => by simp [OneToSeven, encode]

theorem Encodable.sel (n : Fin 8) : Encodable.Statement (.sel n) :=
  fun _ _ => by simp [OneToSeven, encode]

theorem Encodable.selAlt (n : Fin 8) : Encodable.Statement (.selAlt n) :=
  fun _ _ => by simp [OneToSeven, encode]

theorem Encodable.swrs : Encodable.Statement .swrs :=
  fun _ _ => by simp [OneToSeven, encode]

theorem Encodable.nop : Encodable.Statement .nop :=
  fun _ _ => by simp [OneToSeven, encode]

theorem Encodable.ei : Encodable.Statement .ei :=
  fun _ _ => by simp [OneToSeven, encode]

theorem Encodable.di : Encodable.Statement .di :=
  fun _ _ => by simp [OneToSeven, encode]

theorem Encodable.chkl (o : Byte) : Encodable.Statement (.chkl o) :=
  fun _ _ => by simp [OneToSeven, encode]

theorem Encodable.chkla (o : Byte) : Encodable.Statement (.chkla o) :=
  fun _ _ => by simp [OneToSeven, encode]

theorem Encodable.movtblw (lo count : Byte) : Encodable.Statement (.movtblw lo count) :=
  fun _ _ => by simp [OneToSeven, encode]

theorem Encodable.movm (d : Dir) : Encodable.Statement (.movm d) :=
  fun _ _ => by simp [OneToSeven, encode, encString]

theorem Encodable.xchm (d : Dir) : Encodable.Statement (.xchm d) :=
  fun _ _ => by simp [OneToSeven, encode, encString]

theorem Encodable.movbk (d : Dir) : Encodable.Statement (.movbk d) :=
  fun _ _ => by simp [OneToSeven, encode, encString]

theorem Encodable.xchbk (d : Dir) : Encodable.Statement (.xchbk d) :=
  fun _ _ => by simp [OneToSeven, encode, encString]

theorem Encodable.cmpme (d : Dir) : Encodable.Statement (.cmpme d) :=
  fun _ _ => by simp [OneToSeven, encode, encString]

theorem Encodable.cmpmne (d : Dir) : Encodable.Statement (.cmpmne d) :=
  fun _ _ => by simp [OneToSeven, encode, encString]

theorem Encodable.cmpmc (d : Dir) : Encodable.Statement (.cmpmc d) :=
  fun _ _ => by simp [OneToSeven, encode, encString]

theorem Encodable.cmpmnc (d : Dir) : Encodable.Statement (.cmpmnc d) :=
  fun _ _ => by simp [OneToSeven, encode, encString]

theorem Encodable.cmpbke (d : Dir) : Encodable.Statement (.cmpbke d) :=
  fun _ _ => by simp [OneToSeven, encode, encString]

theorem Encodable.cmpbkne (d : Dir) : Encodable.Statement (.cmpbkne d) :=
  fun _ _ => by simp [OneToSeven, encode, encString]

theorem Encodable.cmpbkc (d : Dir) : Encodable.Statement (.cmpbkc d) :=
  fun _ _ => by simp [OneToSeven, encode, encString]

theorem Encodable.cmpbknc (d : Dir) : Encodable.Statement (.cmpbknc d) :=
  fun _ _ => by simp [OneToSeven, encode, encString]

end Sys2Proof.Laws
end

