-- ==== Sys2Proof/Laws/Step.lean ====
section
/-! SUPPORT. What one step can do: `orStuck`, an instruction, an event. -/

namespace Sys2Proof.Machine

@[simp] theorem State.orStuck_next (s t : State) : s.orStuck (.next t) = .next t := rfl
@[simp] theorem State.orStuck_refused (s : State) (r : Refusal) : s.orStuck (.refused r) = .refused r := rfl
@[simp] theorem State.orStuck_deadlock (s : State) : s.orStuck (.fault .deadlock) = .next s.stuck := rfl

/-- A next state of `orStuck` is the outcome's own, or `s` stuck. -/
theorem State.orStuck_cases {s t : State} {o : Host.Outcome State Fault Refusal} (h : s.orStuck o = .next t) :
    o = .next t ∨ (o = .fault .deadlock ∧ t = s.stuck) := by
  cases o with
  | next u => exact .inl h
  | fault r => cases r; cases h; exact .inr ⟨rfl, rfl⟩
  | refused r => cases h

theorem State.orStuck_no_fault (s : State) (o : Host.Outcome State Fault Refusal) (r : Fault) :
    s.orStuck o ≠ .fault r := by
  cases o with
  | next u => intro h; cases h
  | fault r => cases r; intro h; cases h
  | refused r => intro h; cases h

/-- An instruction that gives a next state was decoded, and completed or left the CPU stuck. -/
theorem runInstruction_cases {s t : State} (h : runInstruction s = .next t) :
    ∃ i rest, decode s.cfg.opcodes s.fetch = .ok i rest ∧
      ((∃ u, exec i (s.past (decodedLength s.fetch rest)) = .next u ∧ t = u.completed s.pc i) ∨
       (exec i (s.past (decodedLength s.fetch rest)) = .fault .deadlock ∧ t = s.stuck)) := by
  unfold runInstruction at h
  generalize hd : decode s.cfg.opcodes s.fetch = d at h
  cases d with
  | truncated => cases h
  | unassigned => cases h
  | ok i rest =>
    refine ⟨i, rest, rfl, ?_⟩
    dsimp only at h
    generalize exec i (s.past (decodedLength s.fetch rest)) = o at h ⊢
    cases o with
    | next u => cases h; exact .inl ⟨u, rfl, rfl⟩
    | fault r => cases r; cases h; exact .inr ⟨rfl, rfl⟩
    | refused r => cases h

theorem runInstruction_no_fault (s : State) (r : Fault) : runInstruction s ≠ .fault r := by
  unfold runInstruction
  cases decode s.cfg.opcodes s.fetch with
  | truncated => intro h; cases h
  | unassigned => intro h; cases h
  | ok i rest =>
    dsimp only
    cases exec i (s.past (decodedLength s.fetch rest)) with
    | next u => intro h; cases h
    | fault r => cases r; intro h; cases h
    | refused r => intro h; cases h

/-- What a step that gives a next state did: nothing, an instruction, or an event, which completed or left the
CPU stuck. -/
theorem step_cases {s t : State} (h : step s = .next t) :
    let s1 := s.nextBoundary.2.atBoundary s.nextBoundary.1
    let e := s1.event s.nextBoundary.1
    (e = .proceed ∧ (s1.stopped || s1.deadlocked) = true ∧ t = { s1 with hold := false }) ∨
    (e = .proceed ∧ (s1.stopped || s1.deadlocked) = false ∧ runInstruction { s1 with hold := false } = .next t) ∨
    (e ≠ .proceed ∧ (run (takeEvent e) (s1.entered e) = .next t ∨
      (run (takeEvent e) (s1.entered e) = .fault .deadlock ∧ t = (s1.entered e).stuck))) := by
  intro s1 e
  have h' : (match e with
      | .proceed =>
        if s1.stopped || s1.deadlocked then .next { s1 with hold := false }
        else runInstruction { s1 with hold := false }
      | e => (s1.entered e).orStuck (run (takeEvent e) (s1.entered e)) : Host.Outcome State Fault Refusal) = .next t := h
  generalize e = x at h' ⊢
  cases x with
  | proceed =>
    generalize (s1.stopped || s1.deadlocked) = b at h' ⊢
    cases b
    · exact .inr (.inl ⟨rfl, rfl, h'⟩)
    · cases h'; exact .inl ⟨rfl, rfl, rfl⟩
  | _ => exact .inr (.inr ⟨nofun, State.orStuck_cases h'⟩)

theorem State.wf_stuck {s : State} (h : s.wf) : s.stuck.wf := h

theorem State.wf_initialized {s : State} (h : s.wf) : s.initialized.wf := State.wf_of_same h rfl rfl

end Sys2Proof.Machine
end

