-- ==== Sys2Proof/Tests/Slice0.lean ====
section
/-! SUPPORT. Tests of single steps and of the decoder, and a witness for every statement with hypotheses. Expected
values are those of spec/95_test_vectors.md (parts 1 and 2), which states them from the rules, or are worked out
from the rule a comment names. -/

namespace Sys2Proof.Tests

set_option Elab.async false

open Sys2Proof Sys2Proof.Machine

/-! ## Well-formedness: each form check refuses an ill-formed term -/

theorem test_illFormed_movForm : (Instr.wf (.mov (.imm 0) .a)) = false := by decide
theorem test_illFormed_movwForm : (Instr.wf (.movw .ax (.rp .rp1))) = false := by decide
theorem test_illFormed_movgForm : (Instr.wf (.movg (.rg .tde) .sp)) = false := by decide
theorem test_illFormed_movg_mem1 : (Instr.wf (.movg (.rg .whl) (.mem (.rind .whlInc)))) = false := by decide
theorem test_illFormed_xchForm : (Instr.wf (.xch (.saddr (.s1 0)) .a)) = false := by decide
theorem test_illFormed_xchwForm : (Instr.wf (.xchw (.rp .rp0) (.imm 0))) = false := by decide
theorem test_illFormed_alu8Form : (Instr.wf (.add .a (.r .r1))) = false := by decide
theorem test_illFormed_saddr_class : (Instr.wf (.add .a (.saddr (.s1 0x20)))) = false := by decide
theorem test_illFormed_alu16Form : (Instr.wf (.addw .ax (.abs16 0))) = false := by decide
theorem test_illFormed_alu24Form : (Instr.wf (.addg (.rg .tde) (.saddr (.s1 0)))) = false := by decide
theorem test_illFormed_incForm : (Instr.wf (.inc (.mem (.rind .tde)))) = false := by decide
theorem test_illFormed_incwForm : (Instr.wf (.incw (.sfr 0))) = false := by decide
theorem test_illFormed_incgForm : (Instr.wf (.incg (.imm 0))) = false := by decide
theorem test_illFormed_callForm : (Instr.wf (.call (.rel8 0))) = false := by decide
theorem test_illFormed_sfrNotPsw : (Instr.wf (.mov (.sfr 0xFE) (.imm 0))) = false := by decide

/-! ## Decoding: words written out from the encodings of spec/30_encoding and the examples of 95_test_vectors 1.2, 1.3 -/

/-- The word decodes to the instruction, and encoding the instruction gives the word. -/
def reads (p : List Byte × Instr) : Bool :=
  decode Opcodes.default p.1 == .ok p.2.canonical [] && encode Opcodes.default p.2 == p.1

theorem test_decode_mov :
    ([ ([0xB9, 0x4D], (.mov (.r .r1) (.imm 0x4D) : Instr)),
       ([0x3C, 0x3A, 0x20, 0x55], (.mov (.saddr (.s1 0x20)) (.imm 0x55) : Instr)),
       ([0x2B, 0x40, 0x01], (.mov (.sfr 0x40) (.imm 0x01) : Instr)),
       ([0x09, 0x50, 0x12, 0x56, 0x34, 0xAA], (.mov (.abs24 0x123456) (.imm 0xAA) : Instr)),
       ([0x3C, 0x24, 0x35], (.mov (.r .r3) (.r .r13) : Instr)),
       ([0xD2], (.mov .a (.r .r2) : Instr)),
       ([0x2A, 0x20, 0x40, 0x30], (.mov (.saddr (.s1 0x30)) (.saddr (.s2 0x40)) : Instr)),
       ([0x3E, 0x12, 0x01, 0x45, 0x23], (.mov (.r .r1) (.abs24 0x012345) : Instr)),
       ([0x3C, 0x18, 0x40], (.mov .a (.indP (.s1 0x40)) : Instr)),
       ([0x3C, 0x07, 0x30, 0x40], (.mov .a (.indG (.s1 0x40)) : Instr)),
       ([0x59], (.mov .a (.mem (.rind .whlInc)) : Instr)),
       ([0x06, 0x10, 0x02], (.mov .a (.mem (.based .sp 0x02)) : Instr)),
       ([0x0A, 0x30, 0x45, 0x23, 0x01], (.mov .a (.mem (.indexed .b 0x012345)) : Instr)),
       ([0x17, 0xC0], (.mov (.mem (.bidx .vvpDe)) .a : Instr)),
       ([0x2B, 0xFE, 0x01], (.mov .pswl (.imm 0x01) : Instr)),
       ([0x10, 0xFF], (.mov .a .pswh : Instr)),
       ([0x07, 0x65, 0x0F], (.mov (.ext .t) (.imm 0x0F) : Instr)),
       ([0x05, 0xCF], (.mov (.ext .w) .a : Instr)),
       ([0x09, 0xC0, 0xFD, 0x02], (.movStbc 0xFD 0x02 : Instr)),
       ([0x09, 0xC2, 0x3F, 0xC0], (.movWdm 0x3F 0xC0 : Instr))] : List (List Byte × Instr)).all reads = true := by decide +kernel

theorem test_decode_movw :
    ([ ([0x65, 0x00, 0xE0], (.movw (.rp .rp6) (.imm 0xE000) : Instr)),
       ([0x24, 0x0D], (.movw (.rp .rp0) (.rp .rp6) : Instr)),
       ([0x3E, 0x28, 0x00, 0xE0], (.movw (.rp .rp1) (.abs16 0xE000) : Instr)),
       ([0x16, 0x51], (.movw .ax (.mem (.rind .whl)) : Instr)),
       ([0x07, 0xB1, 0x40], (.movw (.indG (.s2 0x40)) .ax : Instr))] : List (List Byte × Instr)).all reads = true := by decide +kernel

theorem test_decode_movg :
    ([ ([0x38, 0xFB, 0x45, 0x23, 0x01], (.movg (.rg .whl) (.imm 0x012345) : Instr)),
       ([0x3E, 0x9A, 0x00, 0x00, 0x10], (.movg (.rg .vvp) (.abs24 0x001000) : Instr)),
       ([0x38, 0x99, 0x40], (.movg (.rg .vvp) (.saddr (.s1 0x40)) : Instr)),
       ([0x16, 0x02], (.movg (.rg .whl) (.mem (.rind .tdeInc)) : Instr)),
       ([0x09, 0x20, 0xE0, 0xFE, 0x00], (.movg .sp (.imm 0x00FEE0) : Instr))] : List (List Byte × Instr)).all reads = true := by decide +kernel

theorem test_decode_xch_xchw :
    ([ ([0x3C, 0x25, 0x35], (.xch (.r .r3) (.r .r13) : Instr)),
       ([0x3E, 0x24, 0x10, 0xE0], (.xch (.r .r2) (.abs16 0xE010) : Instr)),
       ([0x3C, 0x07, 0x34, 0xA0], (.xch .a (.indG (.s1 0xA0)) : Instr)),
       ([0x25, 0x0A], (.xchw (.rp .rp0) (.rp .rp1) : Instr)),
       ([0x0A, 0x55, 0x02, 0x00, 0x00], (.xchw .ax (.abs24 0x020000) : Instr)),
       ([0x16, 0x15], (.xchw .ax (.mem (.rind .whlInc)) : Instr))] : List (List Byte × Instr)).all reads = true := by decide +kernel

theorem test_decode_alu8 :
    ([ ([0x01, 0x68, 0x40, 0x56], (.add (.sfr 0x40) (.imm 0x56) : Instr)),
       ([0x16, 0x98], (.add (.mem (.rind .whlInc)) .a : Instr)),
       ([0x0A, 0x39, 0x45, 0x23, 0x01], (.addc .a (.mem (.indexed .b 0x012345)) : Instr)),
       ([0x3C, 0x8A, 0xD6], (.sub (.r .r13) (.r .r14) : Instr)),
       ([0x16, 0x0B], (.subc .a (.mem (.rind .tdeInc)) : Instr)),
       ([0x2A, 0x3F, 0x21, 0x20], (.cmp (.saddr (.s1 0x20)) (.saddr (.s1 0x21)) : Instr)),
       ([0x6C, 0x40, 0xDC], (.and (.saddr (.s2 0x40)) (.imm 0xDC) : Instr)),
       ([0x06, 0x0C, 0x10], (.and .a (.mem (.based .tde 0x10)) : Instr)),
       ([0x0A, 0x5E, 0x01, 0x45, 0x23], (.or .a (.abs24 0x012345) : Instr)),
       ([0x7D, 0x22, 0x12], (.xor (.r .r2) (.sfr 0x12) : Instr))] : List (List Byte × Instr)).all reads = true := by decide +kernel

theorem test_decode_alu16_24 :
    ([ ([0x78, 0x2B, 0xCD, 0xAB], (.addw (.rp .rp1) (.imm 0xABCD) : Instr)),
       ([0x7A, 0x0E, 0x12], (.subw (.sfr 0x12) (.rp .rp0) : Instr)),
       ([0x1F, 0x20], (.cmpw .ax (.saddr (.s2 0x20)) : Instr)),
       ([0x88, 0xD9], (.addg (.rg .tde) (.rg .vvp) : Instr)),
       ([0x7A, 0xBB, 0x10, 0x32, 0x54], (.subg (.rg .uup) (.imm 0x543210) : Instr))] : List (List Byte × Instr)).all reads = true := by decide +kernel

theorem test_decode_muldiv_mac :
    ([ ([0x3C, 0x05, 0x0F], (.mulu .r15 : Instr)),
       ([0x05, 0x2F], (.muluw .rp7 : Instr)),
       ([0x05, 0x3F], (.mulw .rp7 : Instr)),
       ([0x3C, 0x05, 0x1C], (.divuw .r12 : Instr)),
       ([0x05, 0xEA], (.divux .rp1 : Instr)),
       ([0x07, 0x85, 0x05], (.macw 0x05 : Instr)),
       ([0x07, 0x95, 0x06], (.macsw 0x06 : Instr)),
       ([0x09, 0x64, 0x41, 0x46], (.sacw : Instr))] : List (List Byte × Instr)).all reads = true := by decide +kernel

theorem test_decode_incdec_adjust :
    ([ ([0xC3], (.inc (.r .r3) : Instr)),
       ([0x3C, 0x27, 0x30], (.dec (.saddr (.s1 0x30)) : Instr)),
       ([0x47], (.incw (.rp .rp7) : Instr)),
       ([0x4E], (.decw (.rp .rp6) : Instr)),
       ([0x3E, 0x2F], (.decw (.rp .rp1) : Instr)),
       ([0x3E, 0xBD], (.incg (.rg .uup) : Instr)),
       ([0x3E, 0x9F], (.decg (.rg .vvp) : Instr)),
       ([0x05, 0xF8], (.incg .sp : Instr)),
       ([0x05, 0xFE], (.adjba : Instr)),
       ([0x05, 0xFF], (.adjbs : Instr)),
       ([0x04], (.cvtbw : Instr))] : List (List Byte × Instr)).all reads = true := by decide +kernel

theorem test_decode_shift_rotate :
    ([ ([0x30, 0x65], (.ror .r5 4 : Instr)),
       ([0x3C, 0x31, 0x56], (.rol .r14 2 : Instr)),
       ([0x30, 0x0B], (.rorc .r3 1 : Instr)),
       ([0x31, 0x1F], (.rolc .r7 3 : Instr)),
       ([0x3C, 0x30, 0x97], (.shr .r15 2 : Instr)),
       ([0x3C, 0x31, 0x8C], (.shl .r12 1 : Instr)),
       ([0x30, 0xD8], (.shrw .rp0 3 : Instr)),
       ([0x31, 0xCD], (.shlw .rp6 1 : Instr)),
       ([0x05, 0x8F], (.ror4 .whl : Instr)),
       ([0x05, 0x9D], (.rol4 .tde : Instr))] : List (List Byte × Instr)).all reads = true := by decide +kernel

theorem test_decode_bit :
    ([ ([0x03, 0x0F], (.mov1Cy .regA 7 : Instr)),
       ([0x08, 0x1C, 0x03], (.mov1To (.sfr 0x03) 4 : Instr)),
       ([0x02, 0x36], (.and1 true .pswl 6 : Instr)),
       ([0x08, 0x4D, 0x02], (.or1 false (.sfr 0x02) 5 : Instr)),
       ([0x03, 0x6F], (.xor1 .regA 7 : Instr)),
       ([0x09, 0xD0, 0x7F, 0x01, 0x45, 0x23], (.not1 (.bit (.abs24 0x012345) 7) : Instr)),
       ([0x3C, 0xB3, 0x20], (.set1 (.bit (.saddr (.s1 0x20)) 3) : Instr)),
       ([0x3D, 0x98], (.clr1 (.bit .whl 0) : Instr)),
       ([0x42], (.not1 .cy : Instr))] : List (List Byte × Instr)).all reads = true := by decide +kernel

theorem test_decode_stack :
    ([ ([0x49], (.push .psw : Instr)),
       ([0x07, 0xDB, 0x12], (.push (.sfr 0x12) : Instr)),
       ([0x35, 0x0F], (.push (.post 0x0F) : Instr)),
       ([0x09, 0x8F], (.push (.rg .whl) : Instr)),
       ([0x37, 0x22], (.pushu 0x22 : Instr)),
       ([0x48], (.pop .psw : Instr)),
       ([0x07, 0xD8, 0x12], (.pop (.sfrp 0x12) : Instr)),
       ([0x34, 0x0F], (.pop (.post 0x0F) : Instr)),
       ([0x36, 0x03], (.popu 0x03 : Instr)),
       ([0x09, 0x28, 0x30, 0x00], (.addwg 0x0030 : Instr)),
       ([0x09, 0x2A, 0x50, 0x00], (.subwg 0x0050 : Instr))] : List (List Byte × Instr)).all reads = true := by decide +kernel

theorem test_decode_call_return :
    ([ ([0x09, 0xF1, 0x59, 0x30], (.call (.abs20 0x13059) : Instr)),
       ([0x05, 0x7D], (.call (.indRp .rp6) : Instr)),
       ([0x3F, 0xFD, 0x00], (.call (.rel16 0x00FD) : Instr)),
       ([0x94, 0x2A], (.callf 0x42A : Instr)),
       ([0xF0], (.callt 16 : Instr)),
       ([0x5E], (.brk : Instr)),
       ([0x05, 0xDB], (.brkcs 3 : Instr)),
       ([0x56], (.ret : Instr)),
       ([0x57], (.reti : Instr)),
       ([0x5F], (.retb : Instr)),
       ([0x29, 0x56, 0x34], (.retcs 0x3456 : Instr)),
       ([0x09, 0xB0, 0xCD, 0xAB], (.retcsb 0xABCD : Instr))] : List (List Byte × Instr)).all reads = true := by decide +kernel

theorem test_decode_branch :
    ([ ([0x09, 0xE1, 0x45, 0x23], (.br (.abs20 0x12345) : Instr)),
       ([0x05, 0x45], (.br (.rg .tde) : Instr)),
       ([0x05, 0x6F], (.br (.indRp .rp7) : Instr)),
       ([0x14, 0x0E], (.br (.rel8 0x0E) : Instr)),
       ([0x80, 0x37], (.bnz 0x37 : Instr)),
       ([0x81, 0x37], (.bz 0x37 : Instr)),
       ([0x82, 0x37], (.bnc 0x37 : Instr)),
       ([0x83, 0x37], (.bc 0x37 : Instr)),
       ([0x84, 0x37], (.bnv 0x37 : Instr)),
       ([0x85, 0x37], (.bv 0x37 : Instr)),
       ([0x86, 0x37], (.bp 0x37 : Instr)),
       ([0x87, 0x37], (.bn 0x37 : Instr)),
       ([0x07, 0xF8, 0x20], (.blt 0x20 : Instr)),
       ([0x07, 0xF9, 0x20], (.bge 0x20 : Instr)),
       ([0x07, 0xFA, 0x20], (.ble 0x20 : Instr)),
       ([0x07, 0xFB, 0x20], (.bgt 0x20 : Instr)),
       ([0x07, 0xFC, 0x20], (.bnh 0x20 : Instr)),
       ([0x07, 0xFD, 0x20], (.bh 0x20 : Instr)),
       ([0x08, 0xAA, 0x02, 0x10], (.bf (.sfr 0x02) 2 0x10 : Instr)),
       ([0x3C, 0x73, 0x47, 0x58], (.bt (.saddr (.s1 0x47)) 3 0x58 : Instr)),
       ([0x02, 0xD0, 0x53], (.btclr .pswl 0 0x53 : Instr)),
       ([0x03, 0xCE, 0x5E], (.bfset .regA 6 0x5E : Instr)),
       ([0x33, 0xF3], (.dbnz .b 0xF3 : Instr)),
       ([0x3B, 0x20, 0xFD], (.dbnz (.saddr (.s2 0x20)) 0xFD : Instr)),
       ([0x80, 0x37], (.bne 0x37 : Instr)),
       ([0x81, 0x37], (.be 0x37 : Instr)),
       ([0x82, 0x37], (.bnl 0x37 : Instr)),
       ([0x83, 0x37], (.bl 0x37 : Instr)),
       ([0x84, 0x37], (.bpo 0x37 : Instr)),
       ([0x85, 0x37], (.bpe 0x37 : Instr))] : List (List Byte × Instr)).all reads = true := by decide +kernel

theorem test_decode_cpu_control :
    ([ ([0x09, 0xC1, 0xFF, 0x00], (.location 0xFF 0x00 : Instr)),
       ([0x05, 0xAA], (.sel 2 : Instr)),
       ([0x05, 0xB9], (.selAlt 1 : Instr)),
       ([0x05, 0xFC], (.swrs : Instr)),
       ([0x00], (.nop : Instr)),
       ([0x4B], (.ei : Instr)),
       ([0x4A], (.di : Instr))] : List (List Byte × Instr)).all reads = true := by decide +kernel

theorem test_decode_chkl_string :
    ([ ([0x07, 0xC8, 0x00], (.chkl 0x00 : Instr)),
       ([0x07, 0xC9, 0x03], (.chkla 0x03 : Instr)),
       ([0x09, 0xA0, 0x60, 0x05], (.movtblw 0x60 0x05 : Instr)),
       ([0x15, 0x00], (.movm .inc : Instr)),
       ([0x15, 0x01], (.xchm .inc : Instr)),
       ([0x15, 0x20], (.movbk .inc : Instr)),
       ([0x15, 0x31], (.xchbk .dec : Instr)),
       ([0x15, 0x04], (.cmpme .inc : Instr)),
       ([0x15, 0x05], (.cmpmne .inc : Instr)),
       ([0x15, 0x07], (.cmpmc .inc : Instr)),
       ([0x15, 0x16], (.cmpmnc .dec : Instr)),
       ([0x15, 0x24], (.cmpbke .inc : Instr)),
       ([0x15, 0x25], (.cmpbkne .inc : Instr)),
       ([0x15, 0x37], (.cmpbkc .dec : Instr)),
       ([0x15, 0x36], (.cmpbknc .dec : Instr))] : List (List Byte × Instr)).all reads = true := by decide +kernel

/-- Rows the table does not have are refused by name (30_encoding R195), as is a truncated word. -/
theorem test_decode_refuses : decode Opcodes.default [0x01, 0x00, 0x00, 0x00] = .unassigned ∧
    decode Opcodes.default [0x3C, 0x3C, 0xC0] = .unassigned ∧ decode Opcodes.default [0xB9] = .truncated := by decide +kernel

/-- A table word is one number with the first byte on top: MOV A,#4DH. -/
theorem test_decodeTableWord : decodeTableWord 16 0xB94D = some (.mov (.r .r1) (.imm 0x4D)) := by decide +kernel

/-- From reset, the placed word is what the next step runs. -/
theorem test_withFetchWord : (match step (State.reset.withFetchWord 16 0xB94D) with
    | .next t => t.a == 0x4D && t.pc == 2
    | _ => false) = true := by decide +kernel

/-! ## One step -/

/-- After `LOCATION 0H`, SP = 0FE00H, about to fetch at 01000H. -/
def base : State := { State.reset with afterReset := false, locDone := true, pc := 0x01000, sp := 0x00FE00 }

/-- The bytes at 01000H, the state prepared by `set`: the step goes on, to a state that satisfies `ok`. -/
def runs (bytes : List Byte) (set : State → State) (ok : State → Bool) : Bool :=
  match step ((set base).placeCode 0x01000 bytes) with
  | .next t => ok t
  | _ => false

/-- S, Z, AC, P/V, CY, 1 for set. -/
def flags (t : State) : List Nat := [t.psw.s.toNat, t.psw.z.toNat, t.psw.ac.toNat, t.psw.pv.toNat, t.psw.cy.toNat]

/-- S, Z, P/V, CY: where AC is undefined. -/
def flags4 (t : State) : List Nat := [t.psw.s.toNat, t.psw.z.toNat, t.psw.pv.toNat, t.psw.cy.toNat]

/-- Bytes of memory from `a` on. -/
def mem (t : State) (a : Nat) (n : Nat) : List (Option Byte) :=
  (List.range n).map fun i => t.peek (BitVec.ofNat 24 (a + i))

/-- Store bytes from `a` on. -/
def put (s : State) (a : Nat) (bs : List Byte) : State :=
  match bs with
  | [] => s
  | b :: bs => put (s.store (BitVec.ofNat 24 a) b) (a + 1) bs

def cy (s : State) : State := s.setCy true

theorem test_mov :
    runs [0x59] (fun s => put (s.setRg .whl 0x001234) 0x1234 [0x7E])
      (fun t => t.a == 0x7E && t.rg .whl == 0x001235 && t.pc == 0x01001) = true ∧
    runs [0x3C, 0x07, 0x30, 0x40] (fun s => put (put s 0xFE40 [0x00, 0x30, 0x01]) 0x13000 [0xAA])
      ((·.a == 0xAA)) = true := by
  decide +kernel

theorem test_mov_psw :
    runs [0x2B, 0xFE, 0xFF] (id)
      (fun t => t.psw.low == 0xFD && t.hold) = true ∧
    runs [0x2B, 0xFF, 0xFF] (id)
      (fun t => t.psw.uf && t.psw.rbs == 7) = true := by
  decide +kernel

theorem test_mov_rss :
    runs [0xD3] (fun s => { s.setR8 .r3 0x77 with psw := { s.psw with rss := true } })
      ((·.r8 .r5 == 0x77)) = true := by
  decide +kernel

theorem test_movStbc :
    runs [0x09, 0xC0, 0xFD, 0x02] (id)
      (fun t => t.stbc == 2 && t.stopped && t.io == [.stbcWrite 2]) = true := by
  decide +kernel

theorem test_movWdm :
    runs [0x09, 0xC2, 0x3F, 0xC0] (id)
      (fun t => t.wdm == 0xC0 && t.io == [.wdmWrite 0xC0]) = true := by
  decide +kernel

theorem test_movw :
    runs [0x3C, 0x0C, 0x20, 0x34, 0x12] (id)
      (fun t => mem t 0xFE20 2 == [some 0x34, some 0x12]) = true ∧
    runs [0x3E, 0x08, 0x21, 0xFE] (fun s => put s 0xFE21 [0x12, 0x56])
      ((·.ax == 0x5612)) = true := by
  decide +kernel

theorem test_movg :
    runs [0x16, 0x02] (fun s => put (s.setRg .tde 0x002000) 0x2000 [0x11, 0x22, 0x33])
      (fun t => t.rg .whl == 0x332211 && t.rg .tde == 0x002003) = true ∧
    runs [0x09, 0x20, 0xE0, 0xFE, 0x00] (id)
      ((·.sp == 0x00FEE0)) = true := by
  decide +kernel

theorem test_xch :
    runs [0x16, 0x44] (fun s => put ((s.setRg .tde 0x002000).setA 0x12) 0x2000 [0x34])
      (fun t => t.a == 0x34 && mem t 0x2000 1 == [some 0x12]) = true ∧
    runs [0xD8] (fun s => (s.setA 0x12).setR8 .r0 0x34)
      (fun t => t.ax == 0x3412) = true := by
  decide +kernel

theorem test_xchw :
    runs [0x25, 0x0A] (fun s => (s.setAx 0x1111).setRp .rp1 0x2222)
      (fun t => t.ax == 0x2222 && t.rp .rp1 == 0x1111) = true := by
  decide +kernel

theorem test_add :
    runs [0xA8, 0x69] ((·.setA 0x78))
      (fun t => t.a == 0xE1 && flags t == [1, 0, 1, 1, 0]) = true ∧
    runs [0x16, 0x98] (fun s => put ((s.setRg .whl 0x002000).setA 0xFF) 0x2000 [0x80])
      (fun t => mem t 0x2000 1 == [some 0x7F] && t.rg .whl == 0x002001 && flags t == [0, 0, 0, 1, 1]) = true := by
  decide +kernel

theorem test_addc :
    runs [0xA9, 0xFF] (fun s => cy (s.setA 0xFF))
      (fun t => t.a == 0xFF && flags t == [1, 0, 1, 0, 1]) = true := by
  decide +kernel

theorem test_sub :
    runs [0xAA, 0xFF] ((·.setA 0x7F))
      (fun t => t.a == 0x80 && flags t == [1, 0, 0, 1, 1]) = true ∧
    runs [0xAA, 0x15] ((·.setA 0x42))
      (fun t => t.a == 0x2D && flags t == [0, 0, 1, 0, 0]) = true := by
  decide +kernel

theorem test_subc :
    runs [0xAB, 0x0F] (fun s => cy (s.setA 0x10))
      (fun t => t.a == 0x00 && flags t == [0, 1, 1, 0, 0]) = true := by
  decide +kernel

theorem test_cmp :
    runs [0xAF, 0x7F] ((·.setA 0x80))
      (fun t => t.a == 0x80 && flags t == [0, 0, 1, 1, 0]) = true := by
  decide +kernel

theorem test_and :
    runs [0xAC, 0x80] (fun s => cy (s.setA 0x81))
      (fun t => t.a == 0x80 && flags t == [1, 0, 0, 0, 1]) = true := by
  decide +kernel

theorem test_or :
    runs [0xAE, 0x01] ((·.setA 0x80))
      (fun t => t.a == 0x81 && flags t == [1, 0, 0, 1, 0]) = true := by
  decide +kernel

theorem test_xor :
    runs [0xAD, 0xFF] ((·.setA 0xFF))
      (fun t => t.a == 0x00 && flags t == [0, 1, 0, 1, 0]) = true := by
  decide +kernel

theorem test_addw :
    runs [0x78, 0x2B, 0xCD, 0xAB] ((·.setRp .rp1 0x1234))
      (fun t => t.rp .rp1 == 0xBE01 && flags4 t == [1, 0, 0, 0]) = true := by
  decide +kernel

theorem test_subw :
    runs [0x2E, 0xFF, 0xFF] ((·.setAx 0x7FFF))
      (fun t => t.ax == 0x8000 && flags4 t == [1, 0, 1, 1]) = true := by
  decide +kernel

theorem test_cmpw :
    runs [0x2F, 0x56, 0x34] ((·.setAx 0x3455))
      (fun t => t.ax == 0x3455 && flags4 t == [1, 0, 0, 1]) = true := by
  decide +kernel

theorem test_addg :
    runs [0x88, 0xD9] (fun s => (s.setRg .tde 0x800000).setRg .vvp 0x800000)
      (fun t => t.rg .tde == 0x000000 && flags4 t == [0, 1, 1, 1]) = true := by
  decide +kernel

theorem test_subg :
    runs [0x7A, 0xBB, 0x10, 0x32, 0x54] ((·.setRg .uup 0x600000))
      (fun t => t.rg .uup == 0x0BCDF0 && flags4 t == [0, 0, 0, 0]) = true := by
  decide +kernel

theorem test_mulu :
    runs [0x3C, 0x05, 0x0F] (fun s => (s.setA 0xFF).setR8 .r15 0xFF)
      ((·.ax == 0xFE01)) = true := by
  decide +kernel

theorem test_muluw :
    runs [0x05, 0x2A] (fun s => (s.setAx 0x1234).setRp .rp1 0x0010)
      (fun t => t.ax == 0x0001 && t.rp .rp1 == 0x2340) = true ∧
    runs [0x05, 0x28] ((·.setAx 0x0100))
      ((·.ax == 0x0001)) = true := by
  decide +kernel

theorem test_mulw :
    runs [0x05, 0x3D] (fun s => (s.setAx 0xFFFF).setRp .rp6 0x0002)
      (fun t => t.ax == 0xFFFF && t.rp .rp6 == 0xFFFE) = true := by
  decide +kernel

theorem test_divuw :
    runs [0x05, 0x1A] (fun s => (s.setAx 0x12A7))
      (fun t => t.ax == 0xFFFF && t.r8 .r2 == 0xA7) = true ∧
    runs [0x05, 0x19] ((·.setAx 0x1234))
      (fun t => t.ax == 0x1002) = true := by
  decide +kernel

theorem test_divux :
    runs [0x05, 0xED] (fun s => s.setAxde 0x00120034)
      (fun t => t.ax == 0x0000 && t.rp .rp6 == 0x001C) = true ∧
    runs [0x05, 0xEA] (fun s => s.setAxde 0x12345678)
      (fun t => t.axde == 0xFFFFFFFF && t.rp .rp1 == 0x5678) = true := by
  decide +kernel

theorem test_macw :
    runs [0x07, 0x85, 0x02] (fun s => put (put (((s.setAxde 0x00000010).setR8 .r3 0x10).setR8 .r2 0x20) 0xFE10 [0x02, 0x00, 0xFD, 0xFF]) 0xFE20 [0x03, 0x00, 0x04, 0x00])
      (fun t => t.axde == 0x0000000A && t.r8 .r3 == 0x14 && t.r8 .r2 == 0x24 && !t.psw.pv) = true := by
  decide +kernel

theorem test_macsw :
    runs [0x07, 0x95, 0x03] (fun s => put (put (((s.setAxde 0x7FFFFFF0).setR8 .r3 0x10).setR8 .r2 0x20) 0xFE10 [0x01, 0x00, 0xFF, 0x7F]) 0xFE20 [0x01, 0x00, 0xFF, 0x7F])
      (fun t => t.axde == 0x7FFFFFFF && t.r8 .r3 == 0x12 && t.r8 .r2 == 0x22 && t.psw.pv) = true := by
  decide +kernel

theorem test_sacw :
    runs [0x09, 0x64, 0x41, 0x46] (fun s => put (put (((s.setRg .tde 0x2000).setRg .whl 0x3000).setR8 .r2 0x02) 0x2000 [0x05, 0x00]) 0x3000 [0x08, 0x00])
      (fun t => t.ax == 0x0003 && t.r8 .r2 == 0x01 && !t.psw.cy && t.rg .tde == 0x2002 && t.rg .whl == 0x3002 && t.pc == 0x01000) = true := by
  decide +kernel

theorem test_inc :
    runs [0xC3] (fun s => cy (s.setR8 .r3 0x7F))
      (fun t => t.r8 .r3 == 0x80 && flags t == [1, 0, 1, 1, 1]) = true := by
  decide +kernel

theorem test_dec :
    runs [0x3C, 0x27, 0x30] (fun s => put s 0xFE30 [0x80])
      (fun t => mem t 0xFE30 1 == [some 0x7F] && flags t == [0, 0, 1, 1, 0]) = true := by
  decide +kernel

theorem test_incw :
    runs [0x46] ((·.setRg .tde 0x01FFFF))
      ((·.rg .tde == 0x010000)) = true := by
  decide +kernel

theorem test_decw :
    runs [0x4F] ((·.setRg .whl 0x020000))
      ((·.rg .whl == 0x02FFFF)) = true := by
  decide +kernel

theorem test_incg :
    runs [0x3E, 0xDD] ((·.setRg .tde 0x01FFFF))
      ((·.rg .tde == 0x020000)) = true := by
  decide +kernel

theorem test_decg :
    runs [0x3E, 0xFF] ((·.setRg .whl 0x020000))
      ((·.rg .whl == 0x01FFFF)) = true := by
  decide +kernel

theorem test_adjba :
    runs [0x05, 0xFE] ((·.setA 0x9A))
      (fun t => t.a == 0x00 && flags t == [0, 1, 1, 1, 1]) = true ∧
    runs [0x05, 0xFE] ((·.setA 0xA0))
      (fun t => t.a == 0x00 && flags t == [0, 1, 0, 1, 1]) = true := by
  decide +kernel

theorem test_adjbs :
    runs [0x05, 0xFF] (fun s => { s.setA 0xF7 with psw := { s.psw with ac := true, cy := true } })
      (fun t => t.a == 0x91 && flags t == [1, 0, 1, 0, 1]) = true := by
  decide +kernel

theorem test_cvtbw :
    runs [0x04] ((·.setA 0x80))
      ((·.ax == 0xFF80)) = true := by
  decide +kernel

theorem test_ror :
    runs [0x30, 0x61] ((·.setA 0x1E))
      (fun t => t.a == 0xE1 && t.psw.pv && t.psw.cy) = true ∧
    runs [0x30, 0x41] (fun s => cy (s.setA 0xA5))
      (fun t => t.a == 0xA5 && flags t == [0, 0, 0, 0, 1]) = true := by
  decide +kernel

theorem test_rol :
    runs [0x3C, 0x31, 0x56] ((·.setR8 .r14 0x81))
      (fun t => t.r8 .r14 == 0x06 && t.psw.pv && !t.psw.cy) = true := by
  decide +kernel

theorem test_rorc :
    runs [0x30, 0x19] (fun s => cy (s.setA 0x96))
      (fun t => t.a == 0xB2 && t.psw.pv && t.psw.cy) = true := by
  decide +kernel

theorem test_rolc :
    runs [0x31, 0x19] (fun s => cy (s.setA 0x96))
      (fun t => t.a == 0xB6 && !t.psw.pv && !t.psw.cy) = true := by
  decide +kernel

theorem test_shr :
    runs [0x3C, 0x30, 0x97] ((·.setR8 .r15 0x06))
      (fun t => t.r8 .r15 == 0x01 && flags t == [0, 0, 0, 0, 1]) = true := by
  decide +kernel

theorem test_shl :
    runs [0x3C, 0x31, 0x8C] ((·.setR8 .r12 0xC0))
      (fun t => t.r8 .r12 == 0x80 && flags t == [1, 0, 0, 0, 1]) = true := by
  decide +kernel

theorem test_shrw :
    runs [0x30, 0xD8] ((·.setAx 0x8004))
      (fun t => t.ax == 0x1000 && flags t == [0, 0, 0, 1, 1]) = true := by
  decide +kernel

theorem test_shlw :
    runs [0x31, 0xCD] ((·.setRp .rp6 0x4001))
      (fun t => t.rp .rp6 == 0x8002 && flags t == [1, 0, 0, 0, 0]) = true := by
  decide +kernel

theorem test_ror4 :
    runs [0x05, 0x8F] (fun s => put ((s.setRg .whl 0x2000).setA 0x12) 0x2000 [0x34])
      (fun t => t.a == 0x14 && mem t 0x2000 1 == [some 0x23]) = true := by
  decide +kernel

theorem test_rol4 :
    runs [0x05, 0x9D] (fun s => put ((s.setRg .tde 0x2000).setA 0x12) 0x2000 [0x34])
      (fun t => t.a == 0x13 && mem t 0x2000 1 == [some 0x42]) = true := by
  decide +kernel

theorem test_mov1 :
    runs [0x03, 0x0F] ((·.setA 0x80))
      ((·.psw.cy)) = true ∧
    runs [0x02, 0x16] (cy)
      (fun t => t.psw.z && t.psw.cy && t.psw.low == 0x41) = true := by
  decide +kernel

theorem test_and1 :
    runs [0x03, 0x38] (fun s => cy (s.setA 0x01))
      (fun t => !t.psw.cy) = true ∧
    runs [0x02, 0x36] (cy)
      ((·.psw.cy)) = true := by
  decide +kernel

theorem test_or1 :
    runs [0x03, 0x50] (id)
      ((·.psw.cy)) = true := by
  decide +kernel

theorem test_xor1 :
    runs [0x02, 0x60] (cy)
      (fun t => !t.psw.cy) = true := by
  decide +kernel

theorem test_not1 :
    runs [0x09, 0xD0, 0x7F, 0x01, 0x45, 0x23] (id)
      (fun t => mem t 0x12345 1 == [some 0x80]) = true ∧
    runs [0x42] (id)
      ((·.psw.cy)) = true := by
  decide +kernel

theorem test_set1 :
    runs [0x02, 0x8D] (id)
      ((·.psw.rbs == 2)) = true ∧
    runs [0x3C, 0xB3, 0x20] (id)
      (fun t => mem t 0xFE20 1 == [some 0x08]) = true := by
  decide +kernel

theorem test_clr1 :
    runs [0xA7, 0x20] (fun s => put s 0xFD20 [0xFF])
      (fun t => mem t 0xFD20 1 == [some 0x7F]) = true := by
  decide +kernel

theorem test_push :
    runs [0x35, 0x03] (fun s => (s.setAx 0x1234).setRp .rp1 0x5678)
      (fun t => mem t 0xFDFC 4 == [some 0x34, some 0x12, some 0x78, some 0x56] && t.sp == 0x00FDFC) = true ∧
    runs [0x09, 0x8F] ((·.setRg .whl 0x123456))
      (fun t => mem t 0xFDFD 3 == [some 0x56, some 0x34, some 0x12] && t.sp == 0x00FDFD) = true := by
  decide +kernel

theorem test_pop :
    runs [0x34, 0x03] (fun s => put s 0xFE00 [0x34, 0x12, 0x78, 0x56])
      (fun t => t.ax == 0x1234 && t.rp .rp1 == 0x5678 && t.sp == 0x00FE04) = true ∧
    runs [0x48] (fun s => put s 0xFE00 [0xFF, 0x7F])
      (fun t => t.psw.low == 0xFD && !t.psw.uf && t.psw.rbs == 7 && t.sp == 0x00FE02) = true := by
  decide +kernel

theorem test_pushu :
    runs [0x37, 0x03] (fun s => (((s.setRg .uup 0x002000).setRp .rp1 0x5678).setAx 0x1234))
      (fun t => mem t 0x1FFC 4 == [some 0x34, some 0x12, some 0x78, some 0x56] && t.rg .uup == 0x001FFC) = true := by
  decide +kernel

theorem test_popu :
    runs [0x36, 0x22] (fun s => put (s.setRg .uup 0x001FFC) 0x1FFC [0x78, 0x56, 0x01, 0x10])
      (fun t => t.psw.rbs == 1 && t.psw.cy && t.rpOf 0 .rp1 == 0x5678 && t.rpOf 0 .rp5 == 0x2000) = true := by
  decide +kernel

theorem test_addwg :
    runs [0x09, 0x28, 0x30, 0x00] (fun s => { s with sp := 0x00FEE0 })
      ((·.sp == 0x00FF10)) = true := by
  decide +kernel

theorem test_subwg :
    runs [0x09, 0x2A, 0x01, 0x00] (fun s => { s with sp := 0x000000 })
      ((·.sp == 0xFFFFFF)) = true := by
  decide +kernel

theorem test_call :
    runs [0x28, 0x34, 0x12] (id)
      (fun t => mem t 0xFDFD 3 == [some 0x03, some 0x10, some 0x00] && t.sp == 0x00FDFD && t.pc == 0x01234) = true ∧
    runs [0x05, 0x57] ((·.setRg .whl 0xF12345))
      ((·.pc == 0x12345)) = true := by
  decide +kernel

theorem test_callf :
    runs [0x94, 0x2A] (id)
      (fun t => mem t 0xFDFD 3 == [some 0x02, some 0x10, some 0x00] && t.pc == 0x00C2A) = true := by
  decide +kernel

theorem test_callt :
    runs [0xF0] (fun s => put s 0x60 [0x00, 0x30])
      (fun t => t.pc == 0x03000 && t.sp == 0x00FDFD) = true := by
  decide +kernel

theorem test_brk :
    runs [0x5E] (fun s => { put s 0x3E [0x00, 0x02] with psw := { s.psw with ie := true, rbs := 2 } })
      (fun t => mem t 0xFDFC 4 == [some 0x01, some 0x10, some 0x08, some 0x20] && t.sp == 0x00FDFC && !t.psw.ie && t.pc == 0x00200) = true := by
  decide +kernel

theorem test_brkcs :
    runs [0x05, 0xDB] (fun s => { s.setRpOf 3 .rp2 0x4000 with psw := { s.psw with z := true, ie := true, cy := true } })
      (fun t => t.rpOf 3 .rp2 == 0x1002 && t.rpOf 3 .rp3 == 0x0049 && t.psw.rbs == 3 && !t.psw.ie && t.pc == 0x04000 && t.sp == 0x00FE00) = true := by
  decide +kernel

theorem test_ret :
    runs [0x56] (fun s => put { s with sp := 0x00FDFD } 0xFDFD [0x03, 0x10, 0xF0])
      (fun t => t.pc == 0x01003 && t.sp == 0x00FE00) = true := by
  decide +kernel

theorem test_reti :
    runs [0x57] (fun s => put { s with sp := 0x00FDFC, ispr := { s.ispr with l1 := true, l3 := true } } 0xFDFC [0x35, 0x12, 0x08, 0x20])
      (fun t => t.pc == 0x01235 && t.psw.ie && t.psw.rbs == 2 && !t.ispr.l1 && t.ispr.l3) = true := by
  decide +kernel

theorem test_retb :
    runs [0x5F] (fun s => put { s with sp := 0x00FDFC, ispr := { s.ispr with l1 := true } } 0xFDFC [0x35, 0x12, 0x08, 0x20])
      (fun t => t.pc == 0x01235 && t.psw.low == 0x08 && t.sp == 0x00FE00 && t.ispr.l1) = true := by
  decide +kernel

theorem test_retcs :
    runs [0x29, 0x56, 0x34] (fun s => { (s.setRp .rp2 0x1234).setRp .rp3 0x2541 with ispr := { s.ispr with l0 := true } })
      (fun t => t.pc == 0x51234 && t.psw.low == 0x41 && t.psw.rbs == 2 && t.rpOf 0 .rp2 == 0x3456 && !t.ispr.l0) = true := by
  decide +kernel

theorem test_retcsb :
    runs [0x09, 0xB0, 0xCD, 0xAB] (fun s => { (s.setRpOf 3 .rp2 0x2002).setRpOf 3 .rp3 0x0049 with psw := { s.psw with rbs := 3 } })
      (fun t => t.pc == 0x02002 && t.psw.low == 0x49 && t.psw.rbs == 0 && t.rpOf 3 .rp2 == 0xABCD) = true := by
  decide +kernel

theorem test_br :
    runs [0x14, 0xFE] (id)
      ((·.pc == 0x01000)) = true ∧
    runs [0x43, 0xFD, 0xFE] (id)
      ((·.pc == 0x00F00)) = true := by
  decide +kernel

theorem test_bf :
    runs [0x03, 0xA8, 0x0D] ((·.setA 0xFE))
      ((·.pc == 0x01010)) = true := by
  decide +kernel

theorem test_bt :
    runs [0x3C, 0x73, 0x47, 0x58] (fun s => put s 0xFE47 [0x08])
      ((·.pc == 0x0105C)) = true ∧
    runs [0x3C, 0x73, 0x47, 0x58] (fun s => put s 0xFE47 [0xF7])
      ((·.pc == 0x01004)) = true := by
  decide +kernel

theorem test_btclr :
    runs [0x02, 0xD0, 0x53] (cy)
      (fun t => !t.psw.cy && t.pc == 0x01056) = true ∧
    runs [0x02, 0xD0, 0x53] (id)
      ((·.pc == 0x01003)) = true := by
  decide +kernel

theorem test_bfset :
    runs [0x03, 0xCE, 0x5E] (id)
      (fun t => t.a == 0x40 && t.pc == 0x01061) = true := by
  decide +kernel

theorem test_dbnz :
    runs [0x33, 0xF3] ((·.setR8 .r3 0x02))
      (fun t => t.r8 .r3 == 0x01 && t.pc == 0x00FF5) = true ∧
    runs [0x3B, 0x20, 0xFD] (fun s => put s 0xFD20 [0x01])
      (fun t => mem t 0xFD20 1 == [some 0x00] && t.pc == 0x01003) = true := by
  decide +kernel

theorem test_location :
    runs [0x09, 0xC1, 0xFF, 0x00] (fun s => { s with locDone := false })
      (fun t => t.loc0f && t.locDone) = true ∧
    runs [0x09, 0xC1, 0xFE, 0x00] (fun s => put s 0x3C [0x00, 0x50])
      (fun t => t.pc == 0x05000 && mem t 0xFDFC 2 == [some 0x00, some 0x10]) = true := by
  decide +kernel

theorem test_sel :
    runs [0x05, 0xAA] (fun s => { s with psw := { s.psw with rss := true } })
      (fun t => t.psw.rbs == 2 && !t.psw.rss) = true := by
  decide +kernel

theorem test_selAlt :
    runs [0x05, 0xB9] (id)
      (fun t => t.psw.rbs == 1 && t.psw.rss) = true := by
  decide +kernel

theorem test_swrs :
    runs [0x05, 0xFC] (id)
      ((·.psw.rss)) = true := by
  decide +kernel

theorem test_nop :
    runs [0x00] (id)
      (fun t => t.pc == 0x01001) = true := by
  decide +kernel

theorem test_ei_di :
    runs [0x4B] (id)
      (fun t => t.psw.ie && t.hold) = true ∧
    runs [0x4A] (fun s => { s with psw := { s.psw with ie := true } })
      (fun t => !t.psw.ie && t.hold) = true := by
  decide +kernel

theorem test_chkl :
    runs [0x07, 0xC8, 0x00] (id)
      (fun t => t.io == [.pinCheck 0x00]) = true := by
  decide +kernel

theorem test_chkla :
    runs [0x07, 0xC9, 0x03] (id)
      (fun t => t.io == [.pinCheck 0x03]) = true := by
  decide +kernel

theorem test_movtblw :
    runs [0x09, 0xA0, 0x60, 0x05] (fun s => put s 0xFE58 [0x00, 0x11, 0x00, 0x22, 0x00, 0x33, 0x00, 0x44, 0x00, 0x55])
      (fun t => mem t 0xFE58 12 == [some 0x00, some 0x11, some 0x00, some 0x11, some 0x00, some 0x22, some 0x00, some 0x33, some 0x00, some 0x44, some 0x00, some 0x55]) = true := by
  decide +kernel

theorem test_movm :
    runs [0x15, 0x00] (fun s => put (put ((((s.setRg .tde 0x2000).setRg .whl 0x3000).setR8 .r2 0x02).setA 0xFF) 0x2000 [0x00]) 0x3000 [0x00])
      (fun t => mem t 0x2000 1 == [some 0xFF] && t.r8 .r2 == 0x01 && t.rg .tde == 0x2001 && t.pc == 0x01000) = true ∧
    runs [0x15, 0x10] (fun s => put (put ((((s.setRg .tde 0x2000).setRg .whl 0x3000).setR8 .r2 0x01).setA 0xFF) 0x2000 [0x00]) 0x3000 [0x00])
      (fun t => t.r8 .r2 == 0x00 && t.rg .tde == 0x1FFF && t.pc == 0x01002) = true := by
  decide +kernel

theorem test_xchm :
    runs [0x15, 0x01] (fun s => put (put ((((s.setRg .tde 0x2000).setRg .whl 0x3000).setR8 .r2 0x03).setA 0x00) 0x2000 [0x11]) 0x3000 [0x00])
      (fun t => mem t 0x2000 1 == [some 0x00] && t.a == 0x11) = true := by
  decide +kernel

theorem test_movbk :
    runs [0x15, 0x20] (fun s => put (put ((((s.setRg .tde 0x2000).setRg .whl 0x3000).setR8 .r2 0x03).setA 0x00) 0x2000 [0x00]) 0x3000 [0xA1])
      (fun t => mem t 0x2000 1 == [some 0xA1] && t.rg .tde == 0x2001 && t.rg .whl == 0x3001) = true := by
  decide +kernel

theorem test_xchbk :
    runs [0x15, 0x21] (fun s => put (put ((((s.setRg .tde 0x2000).setRg .whl 0x3000).setR8 .r2 0x02).setA 0x00) 0x2000 [0x01]) 0x3000 [0xAA])
      (fun t => mem t 0x2000 1 == [some 0xAA] && mem t 0x3000 1 == [some 0x01]) = true := by
  decide +kernel

theorem test_cmpme :
    runs [0x15, 0x04] (fun s => put (put ((((s.setRg .tde 0x2000).setRg .whl 0x3000).setR8 .r2 0x02).setA 0x00) 0x2000 [0x05]) 0x3000 [0x00])
      (fun t => t.pc == 0x01002 && t.r8 .r2 == 0x01 && flags t == [0, 0, 0, 0, 0]) = true := by
  decide +kernel

theorem test_cmpmne :
    runs [0x15, 0x05] (fun s => put (put ((((s.setRg .tde 0x2000).setRg .whl 0x3000).setR8 .r2 0x02).setA 0x05) 0x2000 [0x05]) 0x3000 [0x00])
      (fun t => t.pc == 0x01002 && t.r8 .r2 == 0x01 && flags t == [0, 1, 0, 0, 0]) = true := by
  decide +kernel

theorem test_cmpmc :
    runs [0x15, 0x07] (fun s => put (put ((((s.setRg .tde 0x2000).setRg .whl 0x3000).setR8 .r2 0x02).setA 0x80) 0x2000 [0x04]) 0x3000 [0x00])
      (fun t => t.pc == 0x01000 && flags t == [1, 0, 0, 1, 1]) = true := by
  decide +kernel

theorem test_cmpmnc :
    runs [0x15, 0x06] (fun s => put (put ((((s.setRg .tde 0x2000).setRg .whl 0x3000).setR8 .r2 0x02).setA 0x05) 0x2000 [0x04]) 0x3000 [0x00])
      (fun t => t.pc == 0x01002 && flags t == [1, 0, 1, 0, 1]) = true := by
  decide +kernel

theorem test_cmpbke :
    runs [0x15, 0x24] (fun s => put (put ((((s.setRg .tde 0x2000).setRg .whl 0x3000).setR8 .r2 0x02).setA 0x00) 0x2000 [0x03]) 0x3000 [0x09])
      (fun t => t.pc == 0x01002 && t.rg .whl == 0x3001 && flags t == [1, 0, 1, 0, 1]) = true := by
  decide +kernel

theorem test_cmpbkne :
    runs [0x15, 0x25] (fun s => put (put ((((s.setRg .tde 0x2000).setRg .whl 0x3000).setR8 .r2 0x02).setA 0x00) 0x2000 [0x03]) 0x3000 [0x03])
      (fun t => t.pc == 0x01002 && flags t == [0, 1, 0, 0, 0]) = true := by
  decide +kernel

theorem test_cmpbkc :
    runs [0x15, 0x27] (fun s => put (put ((((s.setRg .tde 0x2000).setRg .whl 0x3000).setR8 .r2 0x02).setA 0x00) 0x2000 [0x03]) 0x3000 [0x03])
      (fun t => t.pc == 0x01002 && flags t == [0, 1, 0, 0, 0]) = true := by
  decide +kernel

theorem test_cmpbknc :
    runs [0x15, 0x26] (fun s => put (put ((((s.setRg .tde 0x2000).setRg .whl 0x3000).setR8 .r2 0x02).setA 0x00) 0x2000 [0x07]) 0x3000 [0x09])
      (fun t => t.pc == 0x01002 && flags t == [1, 0, 1, 0, 1]) = true := by
  decide +kernel

/-- The seven flag settings (S, Z, P/V, CY) of the truth table of 95_test_vectors 2.13. -/
def columns : List (Bool × Bool × Bool × Bool) :=
  [(true, false, true, true), (false, false, true, false), (false, true, false, false), (true, false, false, true), (false, false, false, false), (true, false, false, false), (false, false, false, true)]

/-- Under which of them a branch by 20H at 01000H is taken. -/
def taken (bytes : List Byte) : List Bool :=
  columns.map fun c => runs bytes (fun s => { s with psw := { s.psw with s := c.1, z := c.2.1, pv := c.2.2.1, cy := c.2.2.2 } })
    fun t => t.pc == 0x01020 + BitVec.ofNat 20 bytes.length

theorem test_bnz : taken [0x80, 0x20] =
    [true, true, false, true, true, true, true] := by decide +kernel

theorem test_bz : taken [0x81, 0x20] =
    [false, false, true, false, false, false, false] := by decide +kernel

theorem test_bnc : taken [0x82, 0x20] =
    [false, true, true, false, true, true, false] := by decide +kernel

theorem test_bc : taken [0x83, 0x20] =
    [true, false, false, true, false, false, true] := by decide +kernel

theorem test_bnv : taken [0x84, 0x20] =
    [false, false, true, true, true, true, true] := by decide +kernel

theorem test_bv : taken [0x85, 0x20] =
    [true, true, false, false, false, false, false] := by decide +kernel

theorem test_bp : taken [0x86, 0x20] =
    [false, true, true, false, true, false, true] := by decide +kernel

theorem test_bn : taken [0x87, 0x20] =
    [true, false, false, true, false, true, false] := by decide +kernel

theorem test_blt : taken [0x07, 0xF8, 0x20] =
    [false, true, false, true, false, true, false] := by decide +kernel

theorem test_bge : taken [0x07, 0xF9, 0x20] =
    [true, false, true, false, true, false, true] := by decide +kernel

theorem test_ble : taken [0x07, 0xFA, 0x20] =
    [false, true, true, true, false, true, false] := by decide +kernel

theorem test_bgt : taken [0x07, 0xFB, 0x20] =
    [true, false, false, false, true, false, true] := by decide +kernel

theorem test_bnh : taken [0x07, 0xFC, 0x20] =
    [true, false, true, true, false, false, true] := by decide +kernel

theorem test_bh : taken [0x07, 0xFD, 0x20] =
    [false, true, false, false, true, true, false] := by decide +kernel

/-- A maskable request, vector 00006H, at 12345H (95_test_vectors 2.16). -/
theorem test_request : (match step (put { base with
      pc := 0x12345, psw := { base.psw with z := true, ie := true, cy := true, rbs := 3 },
      inputs := [{ Boundary.none with request := some { src := 0, level := 1, ctx := false } }] } 6 [0x00, 0x40]) with
    | .next t => mem t 0xFDFC 4 == [some 0x45, some 0x23, some 0x49, some 0x31] && t.sp == 0x00FDFC &&
        t.psw.low == 0x41 && t.pc == 0x04000 && t.ispr.l1
    | _ => false) = true := by decide +kernel

/-- An ignored LOCATION, a second one and an operand error hold off requests too (52_cpu_control R752). -/
theorem test_location_holds :
    (match exec (.location 0xFD 0x02) { base with locDone := false }, exec (.location 0xFF 0x00) base,
      exec (.location 0xFF 0x01) { base with locDone := false } with
    | .next t, .next u, .next v => t.hold && !t.locDone && u.hold && !u.loc0f && v.hold && !v.locDone
    | _, _, _ => false) = true := by decide +kernel

/-- MOV A,!!808080H where nothing answers leaves the CPU stuck (20_memory R111, R113). -/
theorem test_deadlock :
    (match step ({ base with cfg := { base.cfg with ext := [(0, 0x1FFF)] } }.placeCode 0x01000
      [0x3E, 0x12, 0x80, 0x80, 0x80]) with
    | .next t => t.deadlocked && t.pc == 0x01000
    | _ => false) = true := by decide +kernel

/-- Only a RESET input leaves it (70_reset_and_hazards R900). -/
theorem test_reset_leaves_deadlock : (match step { base with
      deadlocked := true, inputs := [{ Boundary.none with nmi := true }] },
      step { base with deadlocked := true, inputs := [{ Boundary.none with reset := true }] } with
    | .next t, .next u => t.deadlocked && t.pc == base.pc && !u.deadlocked && u.pc == 0x00000
    | _, _ => false) = true := by decide +kernel

/-- Other operation codes are decoded where the product has them (30_encoding R194). -/
theorem test_opcodes : decode { Opcodes.default with location := (0x09, 0xC3) } [0x09, 0xC3, 0xFE, 0x01] =
    .ok (.location 0xFE 0x01) [] := by decide +kernel

/-! ## Witnesses: a state and operands that meet the hypotheses of each statement, each clause at a boundary -/

theorem base_inv : base.Inv :=
  ⟨by decide, by decide, fun _ h => (List.not_mem_nil h).elim, fun _ h => (List.not_mem_nil h).elim,
    by decide, fun h => absurd h (by decide)⟩

/-- A write of a register keeps the invariant. -/
theorem setR8_inv {s : State} (h : s.Inv) (n : R8) (v : Byte) : (s.setR8 n v).Inv :=
  ⟨Memory.wf_write _ v h.ramForm, h.memForm,
    fun c hc => by
      have k := regKey_range s.psw.rbs n
      have e : s.ramBase ≤ 0xFD00 := Nat.min_le_right _ _
      rcases Memory.mem_write hc with h1 | h1
      · exact h.ramArea c h1
      · exact ⟨by show s.ramBase ≤ c.1; omega, by omega⟩,
    h.memArea, h.spBits, h.location⟩

theorem base_setR8_inv (n : R8) (v : Byte) : (base.setR8 n v).Inv := setR8_inv base_inv n v

/-- Does the outcome go on, to a state that satisfies `ok`? -/
def goesOn (o : Host.Outcome State Fault Refusal) (ok : State → Bool) : Bool :=
  match o with
  | .next t => ok t
  | _ => false

theorem default_free : Opcodes.default.free := by
  refine ⟨by decide, fun p hp rest => ?_⟩
  simp only [List.mem_cons, List.not_mem_nil, or_false] at hp
  rcases hp with rfl | rfl | rfl <;> rfl

theorem witness_EncodeThenDecode : Opcodes.default.free ∧ Instr.wf (.bne 0x80) = true ∧
    Instr.wf (.mov (.abs24 0xFFFFFF) (.imm 0xFF)) = true := ⟨default_free, by decide +kernel⟩

theorem witness_DecodeThenEncode : decode Opcodes.default [0x2A, 0x20, 0x40, 0x30, 0x00] =
    .ok (.mov (.saddr (.s1 0x30)) (.saddr (.s2 0x40))) [0x00] := by decide +kernel

theorem witness_StepRunsDecoded : (base.placeCode 0x01000 [0xB9, 0x4D]).executes ∧
    decode (base.placeCode 0x01000 [0xB9, 0x4D]).cfg.opcodes (base.placeCode 0x01000 [0xB9, 0x4D]).opened.fetch =
      .ok (.mov (.r .r1) (.imm 0x4D)) [0x00, 0x00, 0x00, 0x00, 0x00] :=
  ⟨⟨by decide +kernel, by decide +kernel, by decide +kernel⟩, by decide +kernel⟩

/-- The bytes at `pc` are no instruction; at the last byte of PRAM an instruction of two bytes begins. -/
theorem witness_StepRefuses :
    let s := base.placeCode 0x01000 [0x16, 0x80]
    let t := ({ base with pc := 0x0FCFF } : State).placeCode 0x0FCFF [0x24]
    (s.executes ∧ decode s.cfg.opcodes s.opened.fetch = .unassigned ∧ 6 < s.fetch.length) ∧
    (t.executes ∧ decode t.cfg.opcodes t.opened.fetch = .truncated ∧ t.fetch.length < 7 ∧ 0 < t.fetch.length ∧
      decode t.cfg.opcodes t.fetch = .truncated) ∧ t.inputs = [] ∧
    ({ base with inputs := [Boundary.none] } : State).inputs = Boundary.none :: [] :=
  ⟨⟨⟨by decide +kernel, by decide +kernel, by decide +kernel⟩, by decide +kernel⟩,
    ⟨⟨by decide +kernel, by decide +kernel, by decide +kernel⟩, by decide +kernel⟩, by decide +kernel⟩

theorem witness_StepKeepsInvariant : base.Inv ∧ goesOn (step base) (fun t => t.pc == 0x01001) = true :=
  ⟨base_inv, by decide +kernel⟩

theorem witness_ResetInput :
    let s : State := { base with inputs := [{ Boundary.none with reset := true }] }
    (s.inputs = { Boundary.none with reset := true } :: [] ∧
      ({ s with loc0f := false } : State).peek16 0 = some 0x0000) ∧
    let d : State := { base with deadlocked := true, inputs := [{ Boundary.none with nmi := true }] }
    d.deadlocked = true ∧ ∀ b ∈ d.inputs.head?, b.reset = false := by decide +kernel

theorem witness_StbcAndWdmOnlyByTheirMov :
    goesOn (exec (.movStbc 0xFE 0x01) base) (fun t => t.stbc != base.stbc) = true ∧
    goesOn (exec (.movWdm 0x3F 0xC0) base) (fun t => t.wdm != base.wdm) = true := by decide +kernel

theorem witness_ControlStateChangedByItsOwn :
    goesOn (exec .reti base) (fun _ => true) = true ∧
    goesOn (exec (.location 0xFE 0x01) { base with locDone := false }) (fun t => t.locDone != false) = true ∧
    goesOn (exec (.location 0xFF 0x00) { base with locDone := false }) (fun t => t.loc0f != false) = true ∧
    goesOn (exec .ei base) (fun t => t.hold != base.hold) = true ∧
    goesOn (exec (.mov .pswl (.imm 0x01)) base) (fun t => t.hold != base.hold) = true := by decide +kernel

theorem witness_HostSideKept :
    goesOn (exec (.movStbc 0xFD 0x02) base) (fun t => t.stopped != base.stopped) = true := by decide +kernel

theorem witness_RegistersAreMemory : base.Inv := base_inv

theorem witness_PairsAndLongRegisters : base.Inv ∧ (base.ramBase ≤ 0xF700 ∧ 0xFEFF < 0xFF00) ∧
    0xFD ≤ (0xFD : Byte).toNat ∧ 0xFD ≤ (0xFF : Byte).toNat := ⟨base_inv, by decide +kernel⟩

theorem witness_ContextSwitching : base.Inv := base_inv

theorem witness_StoreReadsBack : base.Inv ∧ base.plain 0x00F700 = true ∧ base.plain 0x00FEFF = true ∧
    base.plainN 0x00FEFE 2 = true ∧ base.plainN 0xFFFFFF 2 = true ∧ base.plainN 0x00FEFD 3 = true ∧
    base.peek 0x00FEFF = some 0x00 ∧ base.peek16 0xFFFFFF = some 0x0000 ∧ base.peek24 0x00FEFD = some 0x000000 :=
  ⟨base_inv, by decide +kernel⟩

/-- A product with 16 KB of ROM, external memory in one bank and SFRs at even offsets only. -/
def small : State := { base with cfg := { Config.default with
  romSize := 0x4000, ext := [(0x20000, 0x2FFFF)], sfrMask := 0x5555555555555555555555555555555555555555555555555555555555555555 } }

theorem witness_AddressesResolve :
    (small.locBase + small.ramBase ≤ 0xF700 ∧ 0xFEFF < small.locBase + 0xFF00) ∧
    (small.locBase + 0xFF00 ≤ 0xFF00 ∧ 0xFFFF ≤ small.locBase + 0xFFFF) ∧
    (¬(small.locBase + small.ramBase ≤ 0x3FFF) ∧ ¬(small.locBase + 0xFF00 ≤ 0x3FFF) ∧ 0x3FFF < small.cfg.romSize) ∧
    (¬(0x20000 < small.locBase + 0xFF00) ∧ ¬(0x20000 ≤ small.locBase + 0xFFFF) ∧ ¬(0x20000 < small.cfg.romSize) ∧
      ∃ r ∈ small.cfg.ext, r.1 ≤ 0x20000 ∧ 0x20000 ≤ r.2) ∧
    (¬(0x4000 < small.cfg.romSize) ∧ ¬∃ r ∈ small.cfg.ext, r.1 ≤ 0x4000 ∧ 0x4000 ≤ r.2) ∧
    small.place 0x003FFF = .rom 0x3FFF ∧ small.place 0x004000 = .unmapped ∧
    (small.place 0x00FFC0 = .sfr 0xC0 ∧ small.sfrGuarded 0xC0 = true) ∧
    (small.place 0x00FF00 = .sfr 0x00 ∧ small.sfrGuarded 0x00 = false ∧ small.sfrMapped 0x00 = true) ∧
    (small.place 0x00FF01 = .sfr 0x01 ∧ small.sfrMapped 0x01 = false ∧ small.sfrGuarded 0x01 = false) ∧
    (∀ p ∈ [(0xFFFC, 0xFC#8, 2), (0xFFFB, 0xFB#8, 3)], base.place p.1 = .sfr p.2.1 ∧ p.2.1.toNat + p.2.2 ≤ 0xFE ∧
      ∀ o ∈ (List.range p.2.2).map (fun i => p.2.1 + BitVec.ofNat 8 i),
        base.sfrMapped o = true ∧ base.sfrGuarded o = false) := by
  decide +kernel

theorem witness_EffectiveAddresses : 0x20 ≤ (0x20 : Byte).toNat ∧ (0x1F : Byte).toNat < 0x20 ∧
    base.peek16 (base.eaSaddr (.s1 0xFE)) = some 0x0000 ∧
    base.peek24 (base.eaSaddr (.s2 0xFD)) = some 0x000000 := by decide +kernel

theorem witness_PointerUpdate : base.Inv ∧ base.footMem (.rind .tde) = Footprint.nothing ∧
    base.footMem (.based .sp 0xFF) = Footprint.nothing ∧ (∀ m, Op8.a ≠ .mem m) ∧ (∀ m, Op16.ax ≠ .mem m) ∧
    (∀ m, Op24.sp ≠ .mem m) :=
  ⟨base_inv, by decide +kernel, by decide +kernel, by simp, by simp, by simp⟩

theorem witness_SumAndDifferenceFlags : 0 < 1 ∧ 0 < 24 := by decide +kernel

theorem witness_MovCopies :
    (movForm (.mem (.rind .whlDec)) .a = true ∧ base.writes8 (.mem (.rind .whlDec)) = true ∧
      base.reads8 .a = true) ∧
    (movForm .a (.indG (.s1 0xFD)) = true ∧ base.writes8 .a = true ∧ base.reads8 (.indG (.s1 0xFD)) = true) ∧
    (movForm .pswl (.imm 0xFF) = true ∧ base.writes8 .pswl = true ∧ base.reads8 (.imm 0xFF) = true) := by
  decide +kernel

theorem witness_MovwMovgCopy :
    (movwForm (.sfr 0xFD) (.imm 0xFFFF) = true ∧ base.writes16 (.sfr 0xFD) = true ∧ base.reads16 (.imm 0xFFFF) = true) ∧
    (movwForm (.rp .rp1) (.saddr (.s1 0xFE)) = true ∧ base.writes16 (.rp .rp1) = true ∧
      base.reads16 (.saddr (.s1 0xFE)) = true ∧ (base.locate16 (.rp .rp1)).1 = .ram 0xFEF2) ∧
    (movgForm .sp (.imm 0xFFFFFF) = true ∧ base.writes24 .sp = true ∧ base.reads24 (.imm 0xFFFFFF) = true) ∧
    (movgForm (.mem (.rind .tdeInc)) (.rg .whl) = true ∧ base.writes24 (.mem (.rind .tdeInc)) = true ∧
      base.reads24 (.rg .whl) = true) := by decide +kernel

theorem witness_XchExchanges :
    (xchForm .a (.mem (.rind .tdeInc)) = true ∧ base.reads8 .a = true ∧ base.reads8 (.mem (.rind .tdeInc)) = true ∧
      base.writes8 .a = true ∧ base.writes8 (.mem (.rind .tdeInc)) = true) ∧
    (xchwForm .ax (.abs24 0xFFFFFF) = true ∧ base.reads16 .ax = true ∧ base.reads16 (.abs24 0xFFFFFF) = true ∧
      base.writes16 .ax = true ∧ base.writes16 (.abs24 0xFFFFFF) = true) := by decide +kernel

theorem witness_Alu8Arithmetic :
    (alu8Form (.mem (.rind .whlInc)) .a = true ∧ base.reads8 (.mem (.rind .whlInc)) = true ∧
      base.reads8 .a = true ∧ base.writes8 (.mem (.rind .whlInc)) = true ∧
      (base.operands8 (.mem (.rind .whlInc)) .a).1.ld = .mem 0x000000) ∧
    (alu8Form (.sfr 0xFE) (.imm 0xFF) = true ∧ base.reads8 (.sfr 0xFE) = true ∧
      base.reads8 (.imm 0xFF) = true ∧ base.writes8 (.sfr 0xFE) = true) := by decide +kernel

theorem witness_Alu8Logic :
    alu8Form .a (.indP (.s2 0xFE)) = true ∧ base.reads8 .a = true ∧ base.reads8 (.indP (.s2 0xFE)) = true ∧
      base.writes8 .a = true := by decide +kernel

theorem witness_AluWide :
    (alu16Form (.rp .rp0) (.saddr (.s1 0xFE)) = true ∧ base.reads16 (.rp .rp0) = true ∧
      base.reads16 (.saddr (.s1 0xFE)) = true ∧ base.writes16 (.rp .rp0) = true) ∧
    (alu24Form (.rg .whl) (.saddr (.s1 0xFD)) = true ∧ base.reads24 (.saddr (.s1 0xFD)) = true) := by
  decide +kernel

theorem witness_Multiply : base.Inv ∧ RP.rp1 ≠ base.pairAX := ⟨base_inv, by decide⟩

theorem witness_Divide : base.Inv ∧ (base.setR8 .r2 0x10).Inv ∧ R8.r2 ≠ base.regA ∧ R8.r2 ≠ base.regX ∧
    RP.rp1 ≠ base.pairAX ∧ RP.rp1 ≠ RP.rp6 ∧ base.r8 .r2 = 0x00#8 ∧ (base.setR8 .r2 0x10).r8 .r2 ≠ 0x00#8 :=
  ⟨base_inv, base_setR8_inv _ _, by decide +kernel⟩

/-- AX and D, and the word at 0FE00H, with bytes to choose: with 7FH the first sum of products leaves the range. -/
def macBase (ax lo hi : Byte) : State :=
  { base with ram := [(0xFE00, 0x01), (0xFE01, lo), (0xFEF1, ax), (0xFEFC, 0xFF), (0xFEFD, hi)] }

theorem macBase_inv {ax lo hi : Byte} (ha : ax ≠ 0x00#8) (hl : lo ≠ 0x00#8) (hh : hi ≠ 0x00#8) :
    (macBase ax lo hi).Inv where
  ramForm := by
    have e : ∀ v : Byte, v ≠ 0x00#8 → (v != Memory.blank) = true := fun v h => by simpa [Memory.blank] using h
    show (Memory.wf [(0xFE00, 0x01), (0xFE01, lo), (0xFEF1, ax), (0xFEFC, 0xFF), (0xFEFD, hi)]) = true
    simp [Memory.wf, Memory.above, e, ha, hl, hh]
  memForm := base_inv.memForm
  ramArea := by
    have e : (macBase ax lo hi).ramBase = 0xF700 := rfl
    intro c h
    simp only [macBase, List.mem_cons, List.not_mem_nil, or_false] at h
    rw [e]
    rcases h with h | h | h | h | h <;> subst h <;> exact ⟨by show _ ≤ _; omega, by show _ < _; omega⟩
  memArea := base_inv.memArea
  spBits := base_inv.spBits
  location := base_inv.location

theorem witness_MacStops :
    (base.Inv ∧ ∀ k < passes 0x01, (0xFD + 2 * k) % 256 ≠ 0xFF) ∧
    ((base.setR8 .r3 0xFF).Inv ∧ ((base.setR8 .r3 0xFF).r8 .r3).toNat = 0xFF) ∧
    ((macBase 0x7F 0x7F 0x7F).Inv ∧ (macBase 0x7F 0x7F 0x7F).r8 .r3 = 0x00#8 ∧
      (macBase 0x7F 0x7F 0x7F).r8 .r2 = 0x00#8 ∧
      (2 ^ 31 : Int) ≤ (macBase 0x7F 0x7F 0x7F).axde.toInt + (macBase 0x7F 0x7F 0x7F).products 0 0 1) :=
  ⟨⟨base_inv, by decide +kernel⟩, ⟨base_setR8_inv _ _, by decide +kernel⟩,
    ⟨macBase_inv (by decide) (by decide) (by decide), by decide +kernel⟩⟩

/-- The first table is clear of the bank's registers; the second starts in them and wraps to the page's start. -/
def macWrap : State := (base.setR8 .r3 0x7C).setR8 .r2 0xFC

theorem witness_MacSum : macWrap.Inv ∧
    (let pb := (macWrap.r8 macWrap.regB).toNat
     let pc := (macWrap.r8 macWrap.regC).toNat
     let apart := fun p : Nat => ∀ q ∈ [macWrap.regA, macWrap.regX, macWrap.regB, macWrap.regC, .r12, .r13],
       regKey macWrap.psw.rbs q ≠ 0xFE00 + p ∧ regKey macWrap.psw.rbs q ≠ 0xFE00 + p + 1
     (∀ k < passes 0x03, (pb + 2 * k) % 256 ≠ 0xFF ∧ (pc + 2 * k) % 256 ≠ 0xFF) ∧
     (∀ k < passes 0x03, 1 ≤ k → apart ((pb + 2 * k) % 256) ∧ apart ((pc + 2 * k) % 256)) ∧
     ∀ k ≤ passes 0x03, -(2 ^ 31 : Int) ≤ macWrap.axde.toInt + macWrap.products pb pc k ∧
       macWrap.axde.toInt + macWrap.products pb pc k < 2 ^ 31) :=
  ⟨setR8_inv (base_setR8_inv _ _) _ _, by decide +kernel⟩

theorem witness_SacwPass : base.Inv ∧ base.readableN (base.rg .tde) 2 = true ∧
    base.readableN (base.rg .whl) 2 = true := ⟨base_inv, by decide +kernel⟩

theorem witness_IncDecByte : incForm (.saddr (.s1 0xFF)) = true ∧ base.reads8 (.saddr (.s1 0xFF)) = true ∧
    base.writes8 (.saddr (.s1 0xFF)) = true := by decide +kernel

theorem witness_IncDecWide : incwForm (.saddr (.s1 0xFE)) = true ∧ base.reads16 (.saddr (.s1 0xFE)) = true ∧
    base.writes16 (.saddr (.s1 0xFE)) = true := by decide +kernel

/-- A with CY and AC as given: the rows of ADJBA's table begin at these values of A. -/
def adj (a : Byte) (ac cy : Bool) : State :=
  { base.setR8 .r1 a with psw := { base.psw with ac := ac, cy := cy } }

theorem witness_DecimalAdjust : Opcodes.default.free ∧ (∀ a ac cy, (adj a ac cy).Inv) ∧
    ((adj 0x99 false false).a = 0x99 ∧ (adj 0xA9 false false).a = 0xA9 ∧ (adj 0x09 false true).a = 0x09) ∧
    ((adj 0x8A false false).a = 0x8A ∧ (adj 0x9A false false).a = 0x9A ∧ (adj 0x0A false true).a = 0x0A) ∧
    ((adj 0x9F true false).a = 0x9F ∧ (adj 0xA0 true false).a = 0xA0 ∧ (adj 0x00 true true).a = 0x00) := by
  refine ⟨default_free, fun a ac cy => ?_, by decide +kernel⟩
  have h := base_setR8_inv .r1 a
  exact ⟨h.ramForm, h.memForm, h.ramArea, h.memArea, h.spBits, h.location⟩

theorem witness_DecimalArithmetic :
    ((0x99 : Byte).toNat % 16 ≤ 9 ∧ (0x99 : Byte).toNat / 16 ≤ 9) ∧
    ((adj (addN (0x99 : Byte) 0x99 true).res true true).a = (addN (0x99 : Byte) 0x99 true).res ∧
      (addN (0x99 : Byte) 0x99 true).ac = true ∧ (addN (0x99 : Byte) 0x99 true).cy = true) ∧
    ((adj (subN (0x00 : Byte) 0x99 true).res true true).a = (subN (0x00 : Byte) 0x99 true).res ∧
      (subN (0x00 : Byte) 0x99 true).ac = true ∧ (subN (0x00 : Byte) 0x99 true).cy = true) := by
  decide +kernel

theorem witness_DigitRotates : base.readable (base.eaMem3 .rp0) = true ∧
    base.writable (base.eaMem3 .rp0) = true := by decide +kernel

theorem witness_BitToCarry : base.readsBit (.abs24 0xFFFFFF) = true ∧ base.readsBit .pswh = true ∧
    Loc8.pswl ≠ .pswh ∧ 4 ≤ (4 : Fin 8).val ∧ (3 : Fin 8).val < 4 := by
  decide +kernel

theorem witness_BitWrites : base.writesBit (.saddr (.s2 0x1F)) = true ∧ base.writesBit .pswl = true := by
  decide +kernel

theorem witness_PushPopOne :
    base.writableN (base.sp - 2) 2 = true ∧ base.reads16 (.sfr 0xFD) = true ∧ base.writable (base.sp - 1) = true ∧
    base.reads8 (.sfr 0xFF) = true ∧ base.writableN (base.sp - 3) 3 = true ∧ base.readableN base.sp 2 = true ∧
    base.writes16 (.sfr 0xFD) = true ∧ base.readable base.sp = true ∧ base.writes8 (.sfr 0xFF) = true ∧
    base.readableN base.sp 3 = true := by decide +kernel

theorem apart_of {l m : List Long} (h : l.all (fun a => !m.contains a) = true) : ∀ a ∈ l, a ∉ m := by
  intro a ha hm
  have := List.all_eq_true.mp h a ha
  simp [hm] at this

theorem base_stackApart (n : RP) : (∀ a ∈ bytesAt (base.sp - 16) 16, a ∉ (base.footRp n).bytes) ∧
    (∀ a ∈ bytesAt base.sp 16, a ∉ (base.footRp n).bytes) ∧
    (∀ a ∈ bytesAt (base.rg .uup) 16, a ∉ (base.footRp n).bytes) ∧
    (∀ a ∈ bytesAt (base.rg .uup - 16) 16, a ∉ (base.footRp n).bytes) := by
  cases n <;> exact ⟨apart_of (by decide +kernel), apart_of (by decide +kernel), apart_of (by decide +kernel),
    apart_of (by decide +kernel)⟩

theorem witness_PushListSaves : base.Inv ∧
    (∀ k ≤ 8, base.spHolds (base.sp - BitVec.ofNat 24 (2 * k))) ∧
    (∀ a ∈ bytesAt (base.sp - 16) 16, base.plain a = true ∧ ∀ n : RP, a ∉ (base.footRp n).bytes) := by
  have h : ∀ a ∈ bytesAt (base.sp - 16) 16, base.plain a = true := List.all_eq_true.mp (by decide +kernel)
  have k : ∀ k ≤ 8, base.spHolds (base.sp - BitVec.ofNat 24 (2 * k)) := by
    unfold State.spHolds; decide +kernel
  exact ⟨base_inv, k, fun a ha => ⟨h a ha, fun n => (base_stackApart n).1 a ha⟩⟩

theorem witness_PopListRestores : base.Inv ∧
    (∀ k ≤ 8, base.spHolds (base.sp + BitVec.ofNat 24 (2 * k))) ∧
    (∀ a ∈ bytesAt base.sp 16, ∀ n : RP, a ∉ (base.footRp n).bytes) ∧
    (∀ i < (selected restorePairs 0xFF).length, base.peek16 (base.sp + BitVec.ofNat 24 (2 * i)) = some 0x0000) := by
  have k : ∀ k ≤ 8, base.spHolds (base.sp + BitVec.ofNat 24 (2 * k)) := by
    unfold State.spHolds; decide +kernel
  exact ⟨base_inv, k, fun a ha n => (base_stackApart n).2.1 a ha, by decide +kernel⟩

theorem witness_PushuSaves : base.Inv ∧
    (∀ a ∈ bytesAt (base.rg .uup - 16) 16, base.plain a = true ∧ ∀ n : RP, a ∉ (base.footRp n).bytes) := by
  have h : ∀ a ∈ bytesAt (base.rg .uup - 16) 16, base.plain a = true := List.all_eq_true.mp (by decide +kernel)
  exact ⟨base_inv, fun a ha => ⟨h a ha, fun n => (base_stackApart n).2.2.2 a ha⟩⟩

theorem witness_PopuRestores : base.Inv ∧ (∀ a ∈ bytesAt (base.rg .uup) 16, ∀ n : RP, a ∉ (base.footRp n).bytes) ∧
    (∀ i < (selected restorePairs 0xFF).length,
      base.peek16 (base.rg .uup + BitVec.ofNat 24 (2 * i)) = some 0x0000) :=
  ⟨base_inv, fun a ha n => (base_stackApart n).2.2.1 a ha, by decide +kernel⟩

theorem witness_Calls : base.writableN (base.sp - 3) 3 = true ∧ callForm (.indRg .tde) = true ∧
    base.readsTarget (.indRg .tde) = true ∧ base.readableN (BitVec.ofNat 24 (0x40 + 2 * 31)) 2 = true := by
  decide +kernel

theorem witness_Returns : Opcodes.default.free ∧ base.readableN base.sp 3 = true ∧
    base.readableN base.sp 4 = true := ⟨default_free, by decide +kernel⟩

theorem witness_BankAndInterruptControl : Opcodes.default.free := default_free

theorem witness_CallThenReturn : base.Inv ∧ base.plainN (base.sp - 4) 4 = true ∧ base.spHolds (base.sp - 3) ∧
    base.spHolds (base.sp - 4) ∧ (callForm (.indRg .whl) = true ∧ base.readsTarget (.indRg .whl) = true) ∧
    base.readableN (BitVec.ofNat 24 (0x40 + 2 * 31)) 2 = true ∧ base.readableN 0x3E 2 = true :=
  ⟨base_inv, by unfold State.spHolds; decide +kernel⟩

theorem witness_VectoredEntry : base.Inv ∧ base.plainN (base.sp - 4) 4 = true ∧ base.spHolds (base.sp - 4) ∧
    base.peek16 (BitVec.ofNat 24 0x3E) = some 0x0000 ∧
    (∀ a ∈ bytesAt (BitVec.ofNat 24 0x3E) 2, a ∉ bytesAt (base.sp - 4) 4) ∧
    base.writableN (base.sp - 4) 4 = true ∧ base.readableN 0x3E 2 = true :=
  ⟨base_inv, by decide +kernel, by unfold State.spHolds; decide +kernel, by decide +kernel,
    apart_of (by decide +kernel), by decide +kernel⟩

theorem witness_Branches : base.readsTarget (.indRp .rp6) = true ∧ base.readsTarget (.rel8 0x80) = true := by
  decide +kernel

theorem witness_BitBranches :
    (base.readsBit (.saddr (.s2 0x20)) = true ∧ base.writesBit (.saddr (.s2 0x20)) = true ∧
      ((base.locateBit (.saddr (.s2 0x20))).lookBit 7 base).1.getLsbD 7 = false) ∧
    (((adj 0x80 false false).locateBit .regA).lookBit 7 (adj 0x80 false false)).1.getLsbD 7 = true ∧
    ((base.locateLoop .b).readable base = true ∧ (base.locateLoop .b).writable base = true) := by decide +kernel

theorem witness_GuardedControl : base.locDone = true ∧ State.reset.locDone = false ∧ (0x02 : Byte) ≠ 0x00 ∧
    (0x02 : Byte) ≠ 0x01 := by decide +kernel

theorem witness_OperandErrorTraps : (0x02 : Byte) ^^^ 0x02 ≠ 0xFF#8 ∧ base.writableN (base.sp - 4) 4 = true ∧
    base.readableN 0x3C 2 = true ∧ base.cfg.hasWdt = true := by decide +kernel

theorem witness_PortCheck : small.cfg.hasChkl = true ∧
    ({ small with cfg := { small.cfg with hasChkl := false } } : State).cfg.hasChkl = false := by decide +kernel

theorem witness_TableMove : base.Inv ∧ (0xFE ≤ (0xFE : Byte).toNat ∧ (0x00 : Byte).toNat + 2 < 2 * passes 0x02) ∧
    ((0xFC : Byte).toNat ≤ 0xFC ∧ 2 * passes 0x7F ≤ (0xFC : Byte).toNat + 2) ∧
    2 * passes 0x01 ≤ (0x00 : Byte).toNat + 2 ∧ (2 * passes 0x7F ≤ 0xFF ∧ base.sfrGuarded 0x00 = false ∧
      base.sfrMapped 0x00 = true) ∧
    (let g : State := { base with cfg := { base.cfg with stbcOff := 0x00 } }
     let n : State := { base with cfg := { base.cfg with sfrMask := 0#256 } }
     g.sfrGuarded 0x00 = true ∧ n.sfrGuarded 0x00 = false ∧ n.sfrMapped 0x00 = false) :=
  ⟨base_inv, by decide +kernel⟩

theorem witness_BlockPass : base.writable (base.rg .tde) = true ∧ base.readable (base.rg .tde) = true ∧
    base.readable (base.rg .whl) = true ∧
    (let t := base.look (base.rg .tde)
     let u := t.2.look (base.rg .whl)
     let w := u.2.store (base.rg .tde) u.1
     w.writable (w.rg .whl) = true) := by decide +kernel

theorem witness_BlockPassEnds : base.Inv ∧ (base.setR8 .r2 0x01).Inv ∧ (base.setR8 .r2 0x01).r8 base.regC = 0x01#8 :=
  ⟨base_inv, base_setR8_inv _ _, by decide +kernel⟩

theorem witness_RequestsTaken :
    let s : State := { base with psw := { base.psw with ie := true }, ispr := { base.ispr with l2 := true } }
    (s.hold = false ∧ s.afterReset = false ∧ s.deadlocked = false ∧ s.writableN (s.sp - 4) 4 = true ∧ s.cfg.hasNmi = true ∧
      s.cfg.hasWdt = true ∧ s.readableN 0x02 2 = true ∧ s.readableN 0x04 2 = true) ∧
    (s.psw.ie = true ∧ s.ispr.allows 1 = true ∧ s.readableN (BitVec.ofNat 24 (0x06 + 2 * 26)) 2 = true ∧
      s.readable (BitVec.ofNat 24 0x06) = true) := by decide +kernel

theorem witness_RequestsDeferred : State.reset.afterReset = true ∧ ({ base with hold := true } : State).hold = true ∧
    base.psw.ie = false ∧ ({ base.ispr with l2 := true } : Ispr).allows 2 = false := by decide +kernel

theorem witness_MacroServiceAndStandby : base.Inv ∧
    let b : Boundary := { Boundary.none with macroService := some [(0x00FD00, 0x01), (0xFFFFFF, 0x02)] }
    let r : Boundary := { Boundary.none with release := true }
    (b.reset = false ∧ (b.nmi || b.wdt) = false ∧ base.hold = false ∧ base.afterReset = false ∧ base.deadlocked = false) ∧
    ([(0x00FD00, 0x01), (0xFFFFFF, 0x02)] = [] ++ ((0x00FD00 : Long), (0x01 : Byte)) :: [(0xFFFFFF, 0x02)] ∧
      (0xFFFFFF : Long) ≠ 0x00FD00 ∧ base.plain 0x00FD00 = true ∧ base.plain 0x00FF00 = false) ∧
    (Boundary.none.macroService = none ∧ Boundary.none.request = none ∧ Boundary.none.release = false ∧
      ({ base with stopped := true } : State).stopped = true) ∧
    (({ base with stopped := true, inputs := [r] } : State).inputs = r :: [] ∧ r.release = true) :=
  ⟨base_inv, by decide +kernel⟩

end Sys2Proof.Tests
end

section
/-! What one step runs and fetches (O4): the decoder never runs out of bytes on seven of them, the bytes fetched are
those at `pc` upwards, and a step in which nothing is acknowledged is `runInstruction` in the state `opened`. -/

namespace Sys2Proof

/-! ## Seven bytes are enough for the decoder

Each table of the decoder is given a list with as many bytes in front as its longest row reads (30_encoding R176,
R177); on such a list it does not answer `truncated`. -/

@[simp] theorem need1_cons (b : Byte) (bs : List Byte) (k : Byte → List Byte → Dec) :
    need1 (b :: bs) k = k b bs := rfl

@[simp] theorem need2_cons (lo hi : Byte) (bs : List Byte) (k : Word → List Byte → Dec) :
    need2 (lo :: hi :: bs) k = k (hi ++ lo) bs := rfl

@[simp] theorem need3_cons (lo hi hw : Byte) (bs : List Byte) (k : Long → List Byte → Dec) :
    need3 (lo :: hi :: hw :: bs) k = k (hw ++ hi ++ lo) bs := rfl

@[simp] theorem need3w_cons (hw lo hi : Byte) (bs : List Byte) (k : Long → List Byte → Dec) :
    need3w (hw :: lo :: hi :: bs) k = k (hw ++ hi ++ lo) bs := rfl

@[simp] theorem noPrefix_eq_truncated (p : Bool) (d : Dec) :
    noPrefix p d = .truncated ↔ p = false ∧ d = .truncated := by cases p <;> simp [noPrefix]

@[simp] theorem assigned_ne_truncated (o : Option Instr) (bs : List Byte) : assigned o bs ≠ .truncated := by
  cases o <;> simp [assigned]

@[simp] theorem decSpecial_ne_truncated (k : Byte → Byte → Instr) (b1 b2 : Byte) (bs : List Byte) :
    decSpecial k (b1 :: b2 :: bs) ≠ .truncated := by simp [decSpecial]

@[simp] theorem decRInd_ne_truncated (n : Nat) (bs : List Byte) : decRInd n bs ≠ .truncated := by
  unfold decRInd
  dsimp only
  repeat' split
  all_goals simp

@[simp] theorem decBased_ne_truncated (n : Nat) (b1 : Byte) (bs : List Byte) :
    decBased n (b1 :: bs) ≠ .truncated := by
  unfold decBased
  repeat' split
  all_goals simp

@[simp] theorem decIndexed_ne_truncated (n : Nat) (b1 b2 b3 : Byte) (bs : List Byte) :
    decIndexed n (b1 :: b2 :: b3 :: bs) ≠ .truncated := by
  unfold decIndexed
  dsimp only
  repeat' split
  all_goals simp

@[simp] theorem decBIdx_ne_truncated (n : Nat) (bs : List Byte) : decBIdx n bs ≠ .truncated := by simp [decBIdx]

/-- The four bit branches read one byte more, the displacement. -/
@[simp] theorem decBitOp_ne_truncated (op : Nat) (x : BitLoc) (b : Fin 8) (b1 : Byte) (bs : List Byte) :
    decBitOp op x b (b1 :: bs) ≠ .truncated := by unfold decBitOp; split <;> simp

@[simp] theorem decBits_ne_truncated (x0 x1 : BitLoc) (n : Nat) (b1 : Byte) (bs : List Byte) :
    decBits x0 x1 n (b1 :: bs) ≠ .truncated := by simp [decBits]

@[simp] theorem decBits08_ne_truncated (p : Bool) (n : Nat) (b1 b2 : Byte) (bs : List Byte) :
    decBits08 p n (b1 :: b2 :: bs) ≠ .truncated := by
  unfold decBits08
  dsimp only [need1_cons]
  repeat' split
  all_goals simp

@[simp] theorem decBitsAbs_ne_truncated (n : Nat) (b1 b2 b3 b4 : Byte) (bs : List Byte) :
    decBitsAbs n (b1 :: b2 :: b3 :: b4 :: bs) ≠ .truncated := by
  unfold decBitsAbs
  repeat' split
  all_goals simp

@[simp] theorem dec01_ne_truncated (n : Nat) (b1 b2 b3 : Byte) (bs : List Byte) :
    dec01 n (b1 :: b2 :: b3 :: bs) ≠ .truncated := by
  unfold dec01
  repeat' split
  all_goals simp

@[simp] theorem dec05_ne_truncated (p : Bool) (n : Nat) (bs : List Byte) : dec05 p n bs ≠ .truncated := by
  unfold dec05
  dsimp only
  repeat' split
  all_goals simp

@[simp] theorem dec07_ne_truncated (p : Bool) (n : Nat) (b1 : Byte) (bs : List Byte) :
    dec07 p n (b1 :: bs) ≠ .truncated := by
  unfold dec07
  dsimp only [need1_cons]
  repeat' split
  all_goals simp

/-- The longest rows of 09H, MOVW !!addr24,#word and the absolute bit branches, have five bytes after its second. -/
@[simp] theorem dec09_ne_truncated (n : Nat) (b1 b2 b3 b4 b5 : Byte) (bs : List Byte) :
    dec09 n (b1 :: b2 :: b3 :: b4 :: b5 :: bs) ≠ .truncated := by
  unfold dec09
  dsimp only [need1_cons]
  repeat' split
  all_goals simp

@[simp] theorem dec15_ne_truncated (n : Nat) (bs : List Byte) : dec15 n bs ≠ .truncated := by
  unfold dec15
  dsimp only
  repeat' split
  all_goals simp

@[simp] theorem dec2A_ne_truncated (n : Nat) (b1 b2 : Byte) (bs : List Byte) :
    dec2A n (b1 :: b2 :: bs) ≠ .truncated := by
  unfold dec2A
  dsimp only
  repeat' split
  all_goals simp

@[simp] theorem dec24_ne_truncated (p : Bool) (n : Nat) (bs : List Byte) : dec24 p n bs ≠ .truncated := by
  unfold dec24
  repeat' split
  all_goals simp

@[simp] theorem dec25_ne_truncated (p : Bool) (n : Nat) (bs : List Byte) : dec25 p n bs ≠ .truncated := by
  unfold dec25
  repeat' split
  all_goals simp

@[simp] theorem dec88_ne_truncated (p : Bool) (k n : Nat) (bs : List Byte) : dec88 p k n bs ≠ .truncated := by
  unfold dec88
  repeat' split
  all_goals simp

@[simp] theorem decShift_ne_truncated (p left : Bool) (n : Nat) (bs : List Byte) :
    decShift p left n bs ≠ .truncated := by
  unfold decShift; dsimp only; split <;> simp

@[simp] theorem dec38_ne_truncated (n : Nat) (b1 b2 b3 : Byte) (bs : List Byte) :
    dec38 n (b1 :: b2 :: b3 :: bs) ≠ .truncated := by
  unfold dec38
  dsimp only
  repeat' split
  all_goals simp

@[simp] theorem dec39_ne_truncated (n : Nat) (b1 : Byte) (bs : List Byte) : dec39 n (b1 :: bs) ≠ .truncated := by
  unfold dec39
  dsimp only
  repeat' split
  all_goals simp

@[simp] theorem dec3E_ne_truncated (n : Nat) (b1 b2 b3 : Byte) (bs : List Byte) :
    dec3E n (b1 :: b2 :: b3 :: bs) ≠ .truncated := by
  unfold dec3E
  dsimp only
  repeat' split
  all_goals simp

@[simp] theorem dec78_ne_truncated (k n : Nat) (b1 b2 b3 : Byte) (bs : List Byte) :
    dec78 k n (b1 :: b2 :: b3 :: bs) ≠ .truncated := by
  unfold dec78
  dsimp only
  repeat' split
  all_goals simp

/-- The rows 00H to 0FH: five bytes after the first, and for 09H, which no 3CH goes before, a sixth. -/
theorem decRow0_ne_truncated {p : Bool} {l : Nat} {b1 b2 b3 b4 b5 : Byte} {bs : List Byte}
    (h : p = true ∨ bs ≠ []) : decRow0 p l (b1 :: b2 :: b3 :: b4 :: b5 :: bs) ≠ .truncated := by
  unfold decRow0
  split
  case h_10 =>
    rcases h with rfl | h
    · simp
    · obtain ⟨b6, bs, rfl⟩ := List.exists_cons_of_ne_nil h
      simp
  all_goals simp

@[simp] theorem decRow1_ne_truncated (p : Bool) (l : Nat) (b1 : Byte) (bs : List Byte) :
    decRow1 p l (b1 :: bs) ≠ .truncated := by unfold decRow1; split <;> simp

@[simp] theorem decRow2_ne_truncated (p : Bool) (l : Nat) (b1 b2 b3 : Byte) (bs : List Byte) :
    decRow2 p l (b1 :: b2 :: b3 :: bs) ≠ .truncated := by unfold decRow2; split <;> simp

@[simp] theorem decRow3_ne_truncated (p : Bool) (l : Nat) (b1 b2 b3 b4 : Byte) (bs : List Byte) :
    decRow3 p l (b1 :: b2 :: b3 :: b4 :: bs) ≠ .truncated := by unfold decRow3; split <;> simp

@[simp] theorem decRow4_ne_truncated (l : Nat) (b1 b2 : Byte) (bs : List Byte) :
    decRow4 l (b1 :: b2 :: bs) ≠ .truncated := by unfold decRow4; split <;> simp

@[simp] theorem decRow5_ne_truncated (l : Nat) (bs : List Byte) : decRow5 l bs ≠ .truncated := by
  unfold decRow5
  split
  case h_5 => split <;> simp
  all_goals simp

theorem decodeOp_ne_truncated {p : Bool} {n : Nat} {b1 b2 b3 b4 b5 : Byte} {bs : List Byte}
    (h : p = true ∨ bs ≠ []) : decodeOp p n (b1 :: b2 :: b3 :: b4 :: b5 :: bs) ≠ .truncated := by
  unfold decodeOp
  dsimp only
  split
  case h_1 => exact decRow0_ne_truncated h
  all_goals repeat' split
  all_goals simp

theorem decodeRows_cons (b1 : Byte) (bs : List Byte) :
    decodeRows (b1 :: bs) =
      if b1 = 0x3C#8 then need1 bs fun b bs => if b = 0x3C#8 then .unassigned else decodeOp true b.toNat bs
      else decodeOp false b1.toNat bs := rfl

theorem decode_cons_cons (o : Opcodes) (b1 b2 : Byte) (bs : List Byte) :
    decode o (b1 :: b2 :: bs) =
      if (b1, b2) = o.movStbc then decSpecial .movStbc bs
      else if (b1, b2) = o.location then decSpecial .location bs
      else if (b1, b2) = o.movWdm then decSpecial .movWdm bs
      else decodeRows (b1 :: b2 :: bs) := rfl

/-- The byte 3CH takes one of the seven, but the row 09H does not follow it (30_encoding R184). -/
theorem decodeRows_ne_truncated (b1 b2 b3 b4 b5 b6 b7 : Byte) (bs : List Byte) :
    decodeRows (b1 :: b2 :: b3 :: b4 :: b5 :: b6 :: b7 :: bs) ≠ .truncated := by
  rw [decodeRows_cons, need1_cons]
  split
  · split
    · simp
    · exact decodeOp_ne_truncated (.inl rfl)
  · exact decodeOp_ne_truncated (.inr (List.cons_ne_nil _ _))

/-- No instruction has more than seven bytes: on seven bytes the decoder does not run out. -/
theorem decode_ne_truncated {o : Opcodes} {bs : List Byte} (h : 7 ≤ bs.length) : decode o bs ≠ .truncated := by
  match bs, h with
  | b1 :: b2 :: b3 :: b4 :: b5 :: b6 :: b7 :: rest, _ =>
    rw [decode_cons_cons]
    repeat' split
    iterate 3 exact decSpecial_ne_truncated _ _ _ _
    exact decodeRows_ne_truncated _ _ _ _ _ _ _ _

namespace Machine

/-! ## The bytes fetched -/

/-- Code is read where a read has no side effect, and not in IRAM (20_memory R115). -/
theorem State.codeByteAt_eq (s : State) (p : Place) :
    s.codeByteAt p = match p with
      | .rom _ | .ext _ => s.peekAt p
      | .ram n => if n < 0xFD00 then s.peekAt p else none
      | .sfr _ | .unmapped => none := by
  cases p <;> rfl

theorem State.codeBytes_of_some {s : State} {n : Nat} {p : PAddr} {b : Byte} (h : s.codeByte p = some b) :
    s.codeBytes (n + 1) p = b :: s.codeBytes n (p + 1) := by rw [State.codeBytes, h]

theorem State.codeBytes_of_none {s : State} {n : Nat} {p : PAddr} (h : s.codeByte p = none) :
    s.codeBytes n p = [] := by
  cases n with
  | zero => rfl
  | succ n => rw [State.codeBytes, h]

theorem State.codeBytes_length_le (s : State) (n : Nat) (p : PAddr) : (s.codeBytes n p).length ≤ n := by
  induction n generalizing p with
  | zero => exact Nat.le_refl 0
  | succ n ih =>
    cases h : s.codeByte p with
    | none => simp [State.codeBytes_of_none h]
    | some b => simpa [State.codeBytes_of_some h] using ih (p + 1)

theorem PAddr.add_one_add_ofNat (p : PAddr) (k : Nat) :
    p + 1 + BitVec.ofNat 20 k = p + BitVec.ofNat 20 (k + 1) := by
  rw [BitVec.ofNat_add, BitVec.add_assoc, BitVec.add_comm 1]
  rfl

/-- Byte `k` fetched from `p` is the code byte at `p + k`, modulo 2^20. -/
theorem State.codeBytes_getElem? {s : State} {n k : Nat} {p : PAddr} (hk : k < (s.codeBytes n p).length) :
    (s.codeBytes n p)[k]? = s.codeByte (p + BitVec.ofNat 20 k) := by
  induction n generalizing p k with
  | zero => exact absurd hk (Nat.not_lt_zero k)
  | succ n ih =>
    cases h : s.codeByte p with
    | none => simp [State.codeBytes_of_none h] at hk
    | some b =>
      rw [State.codeBytes_of_some h] at hk ⊢
      cases k with
      | zero => simp [h]
      | succ k =>
        rw [List.getElem?_cons_succ, ih (Nat.lt_of_succ_lt_succ hk), PAddr.add_one_add_ofNat]

/-- A fetch that ends early has met a byte that cannot be fetched. -/
theorem State.codeByte_of_codeBytes_short {s : State} {n : Nat} {p : PAddr} (hn : (s.codeBytes n p).length < n) :
    s.codeByte (p + BitVec.ofNat 20 (s.codeBytes n p).length) = none := by
  induction n generalizing p with
  | zero => exact absurd hn (Nat.not_lt_zero _)
  | succ n ih =>
    cases h : s.codeByte p with
    | none => simp [State.codeBytes_of_none h, h]
    | some b =>
      rw [State.codeBytes_of_some h] at hn ⊢
      rw [List.length_cons, ← PAddr.add_one_add_ofNat]
      exact ih (Nat.lt_of_succ_lt_succ hn)

theorem State.fetch_short_of_truncated {s : State} (h : decode s.cfg.opcodes s.fetch = .truncated) :
    s.fetch.length < 7 :=
  Nat.lt_of_not_le fun hl => decode_ne_truncated hl h

/-! ## The boundary -/

theorem State.nextBoundary_of_nil {s : State} (h : s.inputs = []) : s.nextBoundary = (Boundary.none, s) := by
  rw [State.nextBoundary, h]

theorem State.nextBoundary_of_cons {s : State} {b : Boundary} {bs : List Boundary} (h : s.inputs = b :: bs) :
    s.nextBoundary = (b, { s with inputs := bs }) := by
  rw [State.nextBoundary, h]

@[simp] theorem State.nextBoundary_deadlocked (s : State) : s.nextBoundary.2.deadlocked = s.deadlocked := by
  unfold State.nextBoundary; split <;> rfl

@[simp] theorem State.nextBoundary_cfg (s : State) : s.nextBoundary.2.cfg = s.cfg := by
  unfold State.nextBoundary; split <;> rfl

theorem State.accepts_eq_false_iff {s : State} {r : Request} :
    s.accepts r = false ↔ s.psw.ie = false ∨ s.ispr.allows r.level = false := Bool.and_eq_false_iff

/-- But for RESET, a CPU that is not deadlocked acknowledges nothing of `b`: the boundary is closed, or no request is
presented that the product has and the levels let through (60_exceptions R837, R840). -/
def State.defers (s : State) (b : Boundary) : Prop :=
  s.hold = true ∨ s.afterReset = true ∨
    ((b.nmi && s.cfg.hasNmi) = false ∧ (b.wdt && s.cfg.hasWdt) = false ∧ b.macroService = none ∧
      ∀ r, b.request = some r → s.psw.ie = false ∨ s.ispr.allows r.level = false)

theorem State.event_eq_proceed_iff (s : State) (b : Boundary) :
    s.event b = .proceed ↔ b.reset = false ∧ (s.deadlocked = true ∨ s.defers b) := by
  unfold State.event State.defers
  by_cases hreset : b.reset = true
  · simp [hreset]
  by_cases hclosed : (s.deadlocked || s.hold || s.afterReset) = true
  · have hor : s.deadlocked = true ∨ s.hold = true ∨ s.afterReset = true := by
      simpa [or_assoc] using hclosed
    rcases hor with h | h | h <;> simp [hreset, h]
  obtain ⟨⟨hdeadlocked, hhold⟩, hafter⟩ : (s.deadlocked = false ∧ s.hold = false) ∧ s.afterReset = false := by
    simpa using hclosed
  by_cases hnmi : (b.nmi && s.cfg.hasNmi) = true
  · simp [hreset, hdeadlocked, hhold, hafter, hnmi]
  by_cases hwdt : (b.wdt && s.cfg.hasWdt) = true
  · simp [hreset, hdeadlocked, hhold, hafter, hnmi, hwdt]
  cases hms : b.macroService with
  | some ws => simp [hreset, hdeadlocked, hhold, hafter, hnmi, hwdt]
  | none =>
    cases hrequest : b.request with
    | none => simp [hreset, hdeadlocked, hhold, hafter, hnmi, hwdt]
    | some r => simp [hreset, hdeadlocked, hhold, hafter, hnmi, hwdt, State.accepts_eq_false_iff]

/-- Where nothing is acknowledged and the CPU runs, a step is the instruction fetched in the state `opened`. -/
theorem step_of_executes {s : State} (h : s.executes) : step s = runInstruction s.opened := by
  obtain ⟨hevent, hstopped, hdeadlocked⟩ := h
  simp [step, stepOnce, hevent, hstopped, hdeadlocked, State.opened]

theorem State.opened_of_nil {s : State} (h : s.inputs = []) : s.opened = { s with hold := false } := by
  rw [State.opened, State.nextBoundary_of_nil h]
  simp [State.atBoundary, Boundary.none]

theorem State.opened_of_cons {s : State} {b : Boundary} {bs : List Boundary} (h : s.inputs = b :: bs) :
    s.opened = { s with inputs := bs, stopped := s.stopped && !b.release, hold := false } := by
  rw [State.opened, State.nextBoundary_of_cons h]
  rfl

theorem State.executes_of_nil {s : State} (h : s.inputs = []) :
    s.executes ↔ s.stopped = false ∧ s.deadlocked = false := by
  rw [State.executes, State.nextBoundary_of_nil h, State.event_eq_proceed_iff]
  simp [State.atBoundary, State.defers, Boundary.none]

theorem State.executes_of_cons {s : State} {b : Boundary} {bs : List Boundary} (h : s.inputs = b :: bs) :
    s.executes ↔ b.reset = false ∧ (s.stopped = false ∨ b.release = true) ∧ s.deadlocked = false ∧ s.defers b := by
  have hboundary : s.executes ↔ (b.reset = false ∧ (s.deadlocked = true ∨ s.defers b)) ∧
      (s.stopped && !b.release) = false ∧ s.deadlocked = false := by
    rw [State.executes, State.nextBoundary_of_cons h, State.event_eq_proceed_iff]
    rfl
  rw [hboundary, Bool.and_eq_false_iff, Bool.not_eq_false']
  cases s.deadlocked with
  | true => simp
  | false =>
    simp only [Bool.false_eq_true, false_or, true_and, and_true]
    exact ⟨fun ⟨⟨hreset, hdefers⟩, hruns⟩ => ⟨hreset, hruns, hdefers⟩,
      fun ⟨hreset, hruns, hdefers⟩ => ⟨⟨hreset, hdefers⟩, hruns⟩⟩

/-- The instructions that may pause between passes: SACW and the string instructions, in both directions (R848). -/
theorem pausable_iff (i : Instr) :
    pausable i = true ↔ i = .sacw ∨ ∃ d, i ∈ [.movm d, .xchm d, .movbk d, .xchbk d, .cmpme d, .cmpmne d,
      .cmpmc d, .cmpmnc d, .cmpbke d, .cmpbkne d, .cmpbkc d, .cmpbknc d] := by
  constructor
  · unfold pausable
    split <;> simp
  · rintro (rfl | ⟨d, hd⟩)
    · rfl
    · simp only [List.mem_cons, List.not_mem_nil, or_false] at hd
      rcases hd with rfl | rfl | rfl | rfl | rfl | rfl | rfl | rfl | rfl | rfl | rfl | rfl <;> rfl

/-! ## O4 -/

/-- The outcomes of the instruction fetched, the stuck state written out. -/
theorem runInstruction_of_decode {s : State} {i : Instr} {rest : List Byte}
    (h : decode s.cfg.opcodes s.fetch = .ok i rest) :
    runInstruction s =
      match exec i (s.past (decodedLength s.fetch rest)) with
      | .next t => .next (t.completed s.pc i)
      | .fault .deadlock => .next { s with deadlocked := true }
      | .refused r => .refused r := by
  rw [runInstruction, h]
  rfl

theorem runInstruction_of_unassigned {s : State} (h : decode s.cfg.opcodes s.fetch = .unassigned) :
    runInstruction s = .refused .undefinedOpcode := by
  rw [runInstruction, h]

theorem runInstruction_of_truncated {s : State} (h : decode s.cfg.opcodes s.fetch = .truncated) :
    runInstruction s = .refused .fetchOutside := by
  rw [runInstruction, h]

theorem State.opened_cfg (s : State) : s.opened.cfg = s.cfg := by
  simp [State.opened]

/-- Settles O4: a step in which nothing is acknowledged is `runInstruction` in the state `opened`, whose outcomes are
those of the decoded instruction; the fetched bytes by induction on their number; an early end of the bytes by the
decoder's longest row. -/
theorem stepRunsDecoded : Obligations.StepRunsDecoded := by
  refine ⟨?runs, ?refuses, ?fetched, ?parts, ?noInput, ?input⟩
  case runs =>
    intro s i rest hs hd
    rw [← s.opened_cfg] at hd
    exact (step_of_executes hs).trans (runInstruction_of_decode hd)
  case refuses =>
    intro s hs
    rw [step_of_executes hs, ← s.opened_cfg]
    exact ⟨runInstruction_of_unassigned, runInstruction_of_truncated⟩
  case fetched =>
    intro s p k a
    exact ⟨s.codeByteAt_eq (s.place a), s.codeBytes_length_le 7 s.pc, State.codeBytes_getElem?,
      State.codeByte_of_codeBytes_short, State.fetch_short_of_truncated⟩
  case parts => exact fun s n p i bs rest => ⟨rfl, rfl, rfl, pausable_iff i⟩
  case noInput => exact fun s h => ⟨State.opened_of_nil h, State.executes_of_nil h⟩
  case input => exact fun s b bs h => ⟨State.opened_of_cons h, State.executes_of_cons h⟩

end Machine

end Sys2Proof
end

section
/-! Registers as bytes of internal RAM, where register operands lie, and the state after reset (O5, O6, O12, O13). -/

namespace Sys2Proof.Machine

/-! ## The state after reset -/

/-- Settles O5: the fields of the state after reset, each a closed term. -/
theorem resetState : Obligations.ResetState := by
  refine ⟨?low, ?high, ?pc, ?ispr, ?locDone, ?hold, ?deadlocked⟩ <;> decide

/-- Settles O6: no byte is listed, SP is 0 and the internal data area has not moved. -/
theorem resetMeetsInvariant : Obligations.ResetMeetsInvariant where
  ramForm := State.reset_wf.1
  memForm := State.reset_wf.2
  ramArea := fun _ hc => absurd hc List.not_mem_nil
  memArea := fun _ hc => absurd hc List.not_mem_nil
  spBits := BitVec.zero_and
  location := fun h => absurd h Bool.false_ne_true

/-! ## A register is a byte of internal RAM (10_state R48, R53) -/

theorem State.place_ramAddr_of_ramBase_le {s : State} {k : Nat} (hlo : s.ramBase ≤ k) (hhi : k < 0xFF00) :
    s.place (s.ramAddr k) = .ram k := by
  have haddr := State.ramAddr_toNat (s := s) (k := k) (by omega)
  rw [State.place, placeIn, haddr, if_neg (by omega), if_pos (by omega), Nat.add_sub_cancel_left]

theorem State.peek_ramAddr_of_ramBase_le {s : State} {k : Nat} (hlo : s.ramBase ≤ k) (hhi : k < 0xFF00) :
    s.peek (s.ramAddr k) = some (s.ram8 k) := by
  rw [State.peek, State.place_ramAddr_of_ramBase_le hlo hhi]
  rfl

theorem State.store_ramAddr {s : State} {k : Nat} (v : Byte) (hlo : s.ramBase ≤ k) (hhi : k < 0xFF00) :
    s.store (s.ramAddr k) v = s.setRam8 k v := by
  rw [State.store, State.place_ramAddr_of_ramBase_le hlo hhi]
  rfl

theorem State.ramBase_le_regKey (s : State) (b : BitVec 3) (n : R8) : s.ramBase ≤ regKey b n := by
  have hbase := s.ramBase_le
  have hkey := (regKey_range b n).1
  omega

/-- The address R48 writes out is that of the register's byte. -/
theorem State.ramAddr_regKey (s : State) (b : BitVec 3) (n : R8) :
    s.ramAddr (regKey b n) = BitVec.ofNat 24 (s.locBase + 0xFE80 + (7 - b.toNat) * 16 + n.num) := by
  simp only [State.ramAddr, regKey, Nat.add_assoc]

theorem State.r8_setR8 {s : State} (n : R8) (v : Byte) (h : s.ram.wf = true) : (s.setR8 n v).r8 n = v :=
  Memory.read_write_same _ v h

/-- Settles O12: the address names the register's byte of internal RAM, wherever LOCBASE puts the area. -/
theorem registersAreMemory : Obligations.RegistersAreMemory := by
  intro s n v a
  have ha : a = s.ramAddr (regKey s.psw.rbs n) := (s.ramAddr_regKey s.psw.rbs n).symm
  have hlo := s.ramBase_le_regKey s.psw.rbs n
  have hhi := (regKey_range s.psw.rbs n).2
  rw [ha]
  exact ⟨State.peek_ramAddr_of_ramBase_le hlo hhi, State.store_ramAddr v hlo hhi,
    fun hinv => State.r8_setR8 n v hinv.ramForm, s.keeps_setR8 n v, fun _ => rfl⟩

/-! ## Pairs and 24-bit registers (R50, R51) -/

/-- R(2n) is the low byte of RP(n), R(2n+1) the high one. -/
theorem regKey_even (b : BitVec 3) (n : RP) : regKey b (R8.ofNum (2 * n.num)) = pairKey b n := by
  cases n <;> rfl

theorem regKey_odd (b : BitVec 3) (n : RP) : regKey b (R8.ofNum (2 * n.num + 1)) = pairKey b n + 1 := by
  cases n <;> rfl

theorem State.rp_eq_r8s (s : State) (n : RP) :
    s.rp n = s.ram8 (regKey s.psw.rbs (R8.ofNum (2 * n.num + 1))) ++
      s.ram8 (regKey s.psw.rbs (R8.ofNum (2 * n.num))) := by
  rw [regKey_even, regKey_odd]
  rfl

theorem State.rp_setRp {s : State} (n : RP) (w : Word) (h : s.ram.wf = true) : (s.setRp n w).rp n = w :=
  State.ram16_setRam16 _ w h

@[simp] theorem State.ext_setExt (s : State) (e : R3) (v : Byte) : (s.setExt e v).ext e = v :=
  Vector.getElem_set_self _

theorem long_of_parts (l : Long) : l.extractLsb' 16 8 ++ l.extractLsb' 0 16 = l := by
  rw [BitVec.extractLsb'_append_extractLsb'_eq_extractLsb' (by rfl)]
  simp

theorem State.rg_setRg {s : State} (g : RG) (l : Long) (h : s.ram.wf = true) : (s.setRg g l).rg g = l := by
  have hext : (s.setRg g l).ext g.ext = l.extractLsb' 16 8 := State.ext_setExt _ _ _
  have hpair : (s.setRg g l).rp g.pair = l.extractLsb' 0 16 := State.rp_setRp g.pair _ h
  rw [State.rg, hext, hpair, long_of_parts]

/-! ## Where register operands lie under RSS, and what each kind of place reads and writes -/

section RssOperands

variable (s : State)

/-- The first of the four registers X, A, C, B: R0, or R4 when RSS = 1 (R52). -/
def State.rssKey : Nat := 0xFE80 + (7 - s.psw.rbs.toNat) * 16 + if s.psw.rss then 4 else 0

theorem State.regKey_regA : regKey s.psw.rbs s.regA = s.rssKey + 1 := by
  unfold State.regA State.rssKey; split <;> rfl

theorem State.regKey_regC : regKey s.psw.rbs s.regC = s.rssKey + 2 := by
  unfold State.regC State.rssKey; split <;> rfl

theorem State.regKey_regB : regKey s.psw.rbs s.regB = s.rssKey + 3 := by
  unfold State.regB State.rssKey; split <;> rfl

theorem State.pairKey_pairAX : pairKey s.psw.rbs s.pairAX = s.rssKey := by
  unfold State.pairAX State.rssKey; split <;> rfl

theorem State.locate8_a : s.locate8 .a = (.ram (s.rssKey + 1), s) := by
  rw [State.locate8, s.regKey_regA]

theorem State.locate16_ax : s.locate16 .ax = (.ram s.rssKey, s) := by
  rw [State.locate16, s.pairKey_pairAX]

theorem State.a_eq_ram8 : s.a = s.ram8 (s.rssKey + 1) := by
  rw [State.a, State.r8, s.regKey_regA]

theorem State.ax_eq_ram8s : s.ax = s.ram8 (s.rssKey + 1) ++ s.ram8 s.rssKey := by
  rw [State.ax, State.rp, State.rpOf, s.pairKey_pairAX, State.ram16]

theorem State.locateLoop_b : s.locateLoop .b = .ram (s.rssKey + 3) := by
  rw [State.locateLoop, s.regKey_regB]

theorem State.locateLoop_c : s.locateLoop .c = .ram (s.rssKey + 2) := by
  rw [State.locateLoop, s.regKey_regC]

theorem State.regs_of_rss_false (h : s.psw.rss = false) :
    [s.regX, s.regA, s.regC, s.regB] = [.r0, .r1, .r2, .r3] ∧ s.pairAX = .rp0 := by
  simp [State.regX, State.regA, State.regC, State.regB, State.pairAX, h]

theorem State.regs_of_rss_true (h : s.psw.rss = true) :
    [s.regX, s.regA, s.regC, s.regB] = [.r4, .r5, .r6, .r7] ∧ s.pairAX = .rp2 := by
  simp [State.regX, State.regA, State.regC, State.regB, State.pairAX, h]

end RssOperands

/-- A pair written byte by byte: the low byte first. -/
theorem Loc24.store_reg (k : Nat) (i : Fin 32) (v : Long) (s : State) :
    (Loc24.reg k i).store v s =
      { (s.setRam8 k (v.extractLsb' 0 8)).setRam8 (k + 1) (v.extractLsb' 8 8) with
          vutw := s.vutw.set i (v.extractLsb' 16 8) } := by
  have hlo : (v.extractLsb' 0 16).extractLsb' 0 8 = v.extractLsb' 0 8 := by simp [BitVec.extractLsb'_extractLsb'_of_le]
  have hhi : (v.extractLsb' 0 16).extractLsb' 8 8 = v.extractLsb' 8 8 := by simp [BitVec.extractLsb'_extractLsb'_of_le]
  simp only [Loc24.store, State.setRam16, hlo, hhi]
  rfl

/-- The offsets FDH, FEH and FFH, one of whose two bytes is in the PSW, and those bytes (R54, D30). -/
theorem State.pswSfr_bytes (s : State) {p : Byte × Loc8 × Loc8}
    (hp : p ∈ [(0xFD#8, Loc8.mem (s.eaSfr 0xFD#8), Loc8.pswl), (0xFE#8, .pswl, .pswh),
      (0xFF#8, .pswh, .mem (s.eaSfr 0xFF#8 + 1))]) :
    s.sfrLoc p.1 = p.2.1 ∧ s.sfrNext p.1 = p.2.2 := by
  simp only [List.mem_cons, List.not_mem_nil, or_false] at hp
  rcases hp with rfl | rfl | rfl <;> exact ⟨rfl, rfl⟩

/-- The bytes of a word at such an offset are read, and written, the low one first. -/
theorem Loc16.look_pswSfr {s : State} {o : Byte} {l h : Loc8} (hl : s.sfrLoc o = l) (hh : s.sfrNext o = h) :
    (Loc16.pswSfr o).look s = ((h.look (l.look s).2).1 ++ (l.look s).1, (h.look (l.look s).2).2) := by
  rw [Loc16.look, hl, hh]

theorem Loc16.store_pswSfr {s : State} {o : Byte} {l h : Loc8} (v : Word) (hl : s.sfrLoc o = l)
    (hh : s.sfrNext o = h) :
    (Loc16.pswSfr o).store v s = h.store (v.extractLsb' 8 8) (l.store (v.extractLsb' 0 8) s) := by
  rw [Loc16.store, hl, hh]

/-- The places of V, U, T and W in the bank, and of the pair below each (R51, D29). -/
theorem State.locate8_ext (s : State) {p : R3 × Nat} (hp : p ∈ [(R3.v, 0), (.u, 1), (.t, 2), (.w, 3)]) :
    ∃ i : Fin 32, i.val = s.psw.rbs.toNat * 4 + p.2 ∧ s.locate8 (.ext p.1) = (.ext i, s) := by
  simp only [List.mem_cons, List.not_mem_nil, or_false] at hp
  rcases hp with rfl | rfl | rfl | rfl <;> exact ⟨extIdx s.psw.rbs _, rfl, rfl⟩

theorem State.locate24_rg (s : State) {p : RG × Nat × Nat}
    (hp : p ∈ [(RG.vvp, 4, 0), (.uup, 5, 1), (.tde, 6, 2), (.whl, 7, 3)]) :
    ∃ i : Fin 32, i.val = s.psw.rbs.toNat * 4 + p.2.2 ∧
      s.locate24 (.rg p.1) = (.reg (0xFE80 + (7 - s.psw.rbs.toNat) * 16 + 2 * p.2.1) i, s) ∧
      s.rg p.1 = s.vutw[i] ++ (s.ram8 (0xFE80 + (7 - s.psw.rbs.toNat) * 16 + 2 * p.2.1 + 1) ++
        s.ram8 (0xFE80 + (7 - s.psw.rbs.toNat) * 16 + 2 * p.2.1)) := by
  simp only [List.mem_cons, List.not_mem_nil, or_false] at hp
  rcases hp with rfl | rfl | rfl | rfl <;> exact ⟨extIdx s.psw.rbs _, rfl, rfl, rfl⟩

/-- Settles O13: the operands that follow RSS by the first of their four registers, the pairs and 24-bit registers by
their bytes, and each kind of place by its equation. -/
theorem pairsAndLongRegisters : Obligations.PairsAndLongRegisters := by
  refine ⟨by decide, ?operands, ?readBack, ?bytes, ?places8, ?places16, ?places24⟩
  case operands =>
    intro s bank first
    exact ⟨s.regs_of_rss_false, s.regs_of_rss_true, s.locate8_a, s.locate16_ax, s.a_eq_ram8, s.ax_eq_ram8s,
      s.locateLoop_b, s.locateLoop_c, fun _ => rfl, fun _ => rfl, fun _ => rfl, fun _ => s.locate8_ext,
      fun _ => s.locate24_rg⟩
  case readBack =>
    intro s w l hinv
    exact ⟨fun n => ⟨s.rp_eq_r8s n, State.rp_setRp n w hinv.ramForm, s.keeps_setRp n w⟩,
      fun g => ⟨rfl, State.rg_setRg g l hinv.ramForm, s.keeps_setRg g l⟩⟩
  case bytes =>
    intro s k b n v first
    exact ⟨fun hlo hhi => ⟨State.peek_ramAddr_of_ramBase_le hlo hhi, State.store_ramAddr v hlo hhi⟩,
      rfl, rfl, rfl, rfl⟩
  case places8 =>
    intro s k a i b v
    exact ⟨rfl, rfl, rfl, rfl, rfl, rfl, rfl, rfl, ⟨_, rfl⟩, rfl, rfl, rfl⟩
  case places16 =>
    intro s k a o w v lo hi
    refine ⟨rfl, rfl, rfl, rfl, rfl, rfl, fun ho => by rw [State.locate16, if_pos ho], fun p hp => ?_⟩
    obtain ⟨hlo, hhi⟩ := s.pswSfr_bytes hp
    exact ⟨Loc16.look_pswSfr hlo hhi, Loc16.store_pswSfr v hlo hhi⟩
  case places24 =>
    intro s k a i l v t
    exact ⟨rfl, Loc24.store_reg k i v s, rfl, rfl, rfl, rfl, rfl, rfl⟩

end Sys2Proof.Machine
end

section
/-! The flag functions against whole-number arithmetic, at every width above 0 (O18; 10_state R43 to R45). -/

namespace Sys2Proof.Machine

section Width

variable {n : Nat} (a b : BitVec n) (c : Bool)

theorem two_pow_eq_two_mul_half (hn : 0 < n) : 2 ^ n = 2 * 2 ^ (n - 1) := by
  rw [← Nat.pow_succ', Nat.succ_eq_add_one, Nat.sub_add_cancel hn]

/-- A word by its low n - 1 bits: they are its magnitude when its top bit is 0 and lie a half range above its signed
reading when it is 1. -/
theorem halves_cases (hn : 0 < n) :
    (a.toNat < 2 ^ (n - 1) ∧ a.toNat % 2 ^ (n - 1) = a.toNat ∧ a.toInt = a.toNat) ∨
    (2 ^ (n - 1) ≤ a.toNat ∧ a.toNat < 2 ^ n ∧ a.toNat % 2 ^ (n - 1) = a.toNat - 2 ^ (n - 1) ∧
      a.toInt = a.toNat - 2 * (2 ^ (n - 1) : Nat)) := by
  have hpow := two_pow_eq_two_mul_half hn
  have hlt := a.isLt
  have htoInt := a.toInt_eq_toNat_cond
  by_cases h : a.toNat < 2 ^ (n - 1)
  · rw [if_pos (by omega)] at htoInt
    exact .inl ⟨h, Nat.mod_eq_of_lt h, htoInt⟩
  · rw [if_neg (by omega), hpow, Int.natCast_mul] at htoInt
    refine .inr ⟨Nat.le_of_not_lt h, hlt, ?_, htoInt⟩
    rw [Nat.mod_eq_sub_mod (Nat.le_of_not_lt h), Nat.mod_eq_of_lt (by omega)]

/-- The carry or borrow in, as a word. -/
theorem setWidth_ofBool (n : Nat) (c : Bool) : (BitVec.ofBool c).setWidth n = BitVec.ofNat n c.toNat := by
  rw [← BitVec.ofNat_toNat, BitVec.toNat_ofBool]

/-! ## ADDn (R43) -/

theorem addN_res : (addN a b c).res = a + b + BitVec.setWidth n (BitVec.ofBool c) := by
  show BitVec.ofNat n (a.toNat + b.toNat + c.toNat) = _
  rw [setWidth_ofBool, BitVec.ofNat_add, BitVec.ofNat_add, BitVec.ofNat_toNat, BitVec.ofNat_toNat,
    BitVec.setWidth_eq, BitVec.setWidth_eq]

theorem addN_cy : (addN a b c).cy = true ↔ 2 ^ n ≤ a.toNat + b.toNat + c.toNat := decide_eq_true_iff

theorem addN_z : (addN a b c).z = true ↔ (addN a b c).res = 0#n := beq_iff_eq

theorem addN_ac : (addN a b c).ac = true ↔ 16 ≤ a.toNat % 16 + b.toNat % 16 + c.toNat := decide_eq_true_iff

/-- V is 1 where one of the carries into and out of the top bit is. -/
theorem addN_v_iff_carries : (addN a b c).v = true ↔
    ¬(2 ^ (n - 1) ≤ a.toNat % 2 ^ (n - 1) + b.toNat % 2 ^ (n - 1) + c.toNat ↔
      2 ^ n ≤ a.toNat + b.toNat + c.toNat) := by
  show (_ != _) = true ↔ _
  rw [bne_iff_ne, ne_eq, decide_eq_decide]

theorem addN_v (hn : 0 < n) : (addN a b c).v = true ↔
    (a.toInt + b.toInt + c.toNat < -(2 ^ (n - 1) : Int) ∨ (2 ^ (n - 1) : Int) ≤ a.toInt + b.toInt + c.toNat) := by
  have hpow := two_pow_eq_two_mul_half hn
  have hcast : (2 ^ (n - 1) : Int) = (2 ^ (n - 1) : Nat) := (Int.natCast_pow 2 (n - 1)).symm
  have hc := c.toNat_le
  rw [addN_v_iff_carries, hpow, hcast]
  rcases halves_cases a hn with ⟨ha, hma, hia⟩ | ⟨ha, ha', hma, hia⟩ <;>
    rcases halves_cases b hn with ⟨hb, hmb, hib⟩ | ⟨hb, hb', hmb, hib⟩ <;>
    · rw [hma, hmb, hia, hib]
      omega

/-! ## SUBn (R44) -/

theorem subN_res : (subN a b c).res = a - b - BitVec.setWidth n (BitVec.ofBool c) := by
  have word (x : BitVec n) : BitVec.ofInt n x.toNat = x := by
    rw [BitVec.ofInt_natCast, BitVec.ofNat_toNat, BitVec.setWidth_eq]
  rw [setWidth_ofBool, BitVec.eq_sub_iff_add_eq, BitVec.eq_sub_iff_add_eq]
  calc (subN a b c).res + BitVec.ofNat n c.toNat + b
      = BitVec.ofInt n (((a.toNat : Int) - b.toNat - c.toNat) + c.toNat + b.toNat) := by
        rw [BitVec.ofInt_add, BitVec.ofInt_add, BitVec.ofInt_natCast n c.toNat, word b]; rfl
    _ = a := by rw [Int.sub_add_cancel, Int.sub_add_cancel, word a]

theorem subN_cy : (subN a b c).cy = true ↔ a.toNat < b.toNat + c.toNat := by
  show decide (_ < _) = true ↔ _
  rw [decide_eq_true_iff]
  omega

theorem subN_z : (subN a b c).z = true ↔ (subN a b c).res = 0#n := beq_iff_eq

theorem subN_ac : (subN a b c).ac = true ↔ a.toNat % 16 < b.toNat % 16 + c.toNat := by
  show decide (_ < _) = true ↔ _
  rw [decide_eq_true_iff]
  omega

/-- V is 1 where one of the borrows into and out of the top bit is. -/
theorem subN_v_iff_borrows : (subN a b c).v = true ↔
    ¬(a.toNat % 2 ^ (n - 1) < b.toNat % 2 ^ (n - 1) + c.toNat ↔ a.toNat < b.toNat + c.toNat) := by
  show (_ != _) = true ↔ _
  rw [bne_iff_ne, ne_eq, decide_eq_decide]
  omega

theorem subN_v (hn : 0 < n) : (subN a b c).v = true ↔
    (a.toInt - b.toInt - c.toNat < -(2 ^ (n - 1) : Int) ∨ (2 ^ (n - 1) : Int) ≤ a.toInt - b.toInt - c.toNat) := by
  have hpow := two_pow_eq_two_mul_half hn
  have hcast : (2 ^ (n - 1) : Int) = (2 ^ (n - 1) : Nat) := (Int.natCast_pow 2 (n - 1)).symm
  have hc := c.toNat_le
  rw [subN_v_iff_borrows, hcast]
  rcases halves_cases a hn with ⟨ha, hma, hia⟩ | ⟨ha, ha', hma, hia⟩ <;>
    rcases halves_cases b hn with ⟨hb, hmb, hib⟩ | ⟨hb, hb', hmb, hib⟩ <;>
    · rw [hma, hmb, hia, hib]
      omega

end Width

/-! ## Parity (R45) -/

/-- The number of elements that satisfy `p` is the sum of `p` read as 0 and 1. -/
theorem countP_eq_sum_toNat {α : Type} (p : α → Bool) (l : List α) :
    l.countP p = (l.map fun x => (p x).toNat).sum := by
  induction l with
  | nil => rfl
  | cons x l ih =>
    rw [List.countP_cons, List.map_cons, List.sum_cons, ih, Nat.add_comm]
    cases p x <;> rfl

theorem par8_iff (v : Byte) :
    par8 v = true ↔ ((List.range 8).map fun i => (v.getLsbD i).toNat).sum % 2 = 0 := by
  rw [par8, decide_eq_true_iff, countP_eq_sum_toNat]

/-- Settles O18: each output of ADDn and SUBn by its lemma above, V by the halves the two operands lie in. -/
theorem sumAndDifferenceFlags : Obligations.SumAndDifferenceFlags :=
  ⟨fun _ a b c hn => ⟨addN_res a b c, addN_cy a b c, addN_z a b c, rfl, addN_v a b c hn, addN_ac a b c⟩,
    fun _ a b c hn => ⟨subN_res a b c, subN_cy a b c, subN_z a b c, rfl, subN_v a b c hn, subN_ac a b c⟩,
    par8_iff⟩

end Sys2Proof.Machine
end

section
/-! What the run of an instruction is made of (O9): updates of the data every instruction may change, and of the
control state the update of its own that the instruction has. An invariant of `exec` is then a fact about each kind
of update. -/

namespace Sys2Proof.Machine

/-! ## The updates -/

/-- A byte of the general registers of some bank, by its LOCATION 0H address (10_state R48). -/
def RegByte (k : Nat) : Prop := 0xFE80 ≤ k ∧ k < 0xFF00

/-- One update of the data, which any instruction may make. -/
inductive State.DataUpdate (s : State) : State → Prop
  | pc (p : PAddr) : s.DataUpdate { s with pc := p }
  | psw (p : Psw) : s.DataUpdate { s with psw := p }
  | sp (v : Long) : s.DataUpdate (s.setSp v)
  | ext (i : Fin 32) (v : Byte) : s.DataUpdate { s with vutw := s.vutw.set i v }
  | reg {k : Nat} (v : Byte) (hk : RegByte k) : s.DataUpdate (s.setRam8 k v)
  | store (a : Long) (v : Byte) : s.DataUpdate (s.store a v)
  | tell (e : IoEvent) : s.DataUpdate (s.tell e)
  | draw : s.DataUpdate { s with draws := s.draws + 1 }

/-- `t` comes from `s` by any number of steps of `R` (the model's files do not import Mathlib's closures). -/
inductive StepChain (R : State → State → Prop) (s : State) : State → Prop
  | refl : StepChain R s s
  | tail {t u : State} (h : StepChain R s t) (hstep : R t u) : StepChain R s u

theorem StepChain.single {R : State → State → Prop} {s t : State} (h : R s t) : StepChain R s t := .tail .refl h

theorem StepChain.trans {R : State → State → Prop} {s t u : State} (h : StepChain R s t) (g : StepChain R t u) :
    StepChain R s u := by
  induction g with
  | refl => exact h
  | tail _ hstep ih => exact .tail ih hstep

theorem StepChain.mono {R Q : State → State → Prop} (hRQ : ∀ s t, R s t → Q s t) {s t : State}
    (h : StepChain R s t) : StepChain Q s t := by
  induction h with
  | refl => exact .refl
  | tail _ hstep ih => exact .tail ih (hRQ _ _ hstep)

/-- `t` comes from `s` by such updates. -/
def State.Updates : State → State → Prop := StepChain State.DataUpdate

/-- The update of the control state an instruction has of its own: STBC, WDM, LOCATION, HOLD, ISPR. -/
inductive OwnUpdate : Instr → State → State → Prop
  | stbc {s : State} {nb b : Byte} (h : nb ^^^ b = 0xFF#8) : OwnUpdate (.movStbc nb b) s (s.writeStbc b)
  | wdm {s : State} {nb b : Byte} (h : nb ^^^ b = 0xFF#8) (hw : s.cfg.hasWdt = true) :
      OwnUpdate (.movWdm nb b) s { s.tell (.wdmWrite b) with wdm := b }
  | location {s : State} {lo hi : Byte} (h : lo ^^^ hi = 0xFF#8) : OwnUpdate (.location lo hi) s (s.relocate lo)
  | hold {i : Instr} {s : State} (h : i = .ei ∨ i = .di ∨ (∃ a b, i = .location a b) ∨ ∃ x, i = .mov .pswl x) :
      OwnUpdate i s s.held
  | ispr {i : Instr} {s : State} (h : i = .reti ∨ ∃ w, i = .retcs w) :
      OwnUpdate i s { s with ispr := s.ispr.clearHighest }

/-- One update in the run of `i`. -/
def InstrUpdate (i : Instr) (s t : State) : Prop := s.DataUpdate t ∨ OwnUpdate i s t

/-- `t` comes from `s` by updates in the run of `i`. -/
def InstrUpdates (i : Instr) : State → State → Prop := StepChain (InstrUpdate i)

/-! ## Equations of the wide accesses, one per case (20_memory R128, R129) -/

theorem State.look16_of_sfr {s : State} {a : Long} {off : Byte} (h : s.sfrSpan a 2 = some off) :
    s.look16 a = ((Config.sfrRead s.io off 2).setWidth 16, s.tell (.sfrRead off 2)) := by
  rw [State.look16, h]
  rfl

theorem State.look16_of_bytes {s : State} {a : Long} (h : s.sfrSpan a 2 = none) :
    s.look16 a = (((s.look a).2.look (a + 1)).1 ++ (s.look a).1, ((s.look a).2.look (a + 1)).2) := by
  rw [State.look16, h]

theorem State.look24_of_sfr {s : State} {a : Long} {off : Byte} (h : s.sfrSpan a 3 = some off) :
    s.look24 a = (Config.sfrRead s.io off 3, s.tell (.sfrRead off 3)) := by
  rw [State.look24, h]
  rfl

theorem State.look24_of_bytes {s : State} {a : Long} (h : s.sfrSpan a 3 = none) :
    s.look24 a = ((((s.look a).2.look (a + 1)).2.look (a + 2)).1 ++ ((s.look a).2.look (a + 1)).1 ++ (s.look a).1,
      (((s.look a).2.look (a + 1)).2.look (a + 2)).2) := by
  rw [State.look24, h]

namespace State.Updates

theorem refl (s : State) : s.Updates s := StepChain.refl

theorem trans {s t u : State} (h : s.Updates t) (g : t.Updates u) : s.Updates u := StepChain.trans h g

theorem single {s t : State} (h : s.DataUpdate t) : s.Updates t := StepChain.single h

theorem pc (s : State) (p : PAddr) : s.Updates { s with pc := p } := single (.pc p)
theorem psw (s : State) (p : Psw) : s.Updates { s with psw := p } := single (.psw p)
theorem setSp (s : State) (v : Long) : s.Updates (s.setSp v) := single (.sp v)
theorem ext (s : State) (i : Fin 32) (v : Byte) : s.Updates { s with vutw := s.vutw.set i v } := single (.ext i v)
theorem setRam8 (s : State) {k : Nat} (v : Byte) (hk : RegByte k) : s.Updates (s.setRam8 k v) := single (.reg v hk)
theorem store (s : State) (a : Long) (v : Byte) : s.Updates (s.store a v) := single (.store a v)
theorem tell (s : State) (e : IoEvent) : s.Updates (s.tell e) := single (.tell e)
theorem draw (s : State) : s.Updates { s with draws := s.draws + 1 } := single .draw
theorem pcPsw (s : State) (p : PAddr) (w : Psw) : s.Updates { s with pc := p, psw := w } := (pc s p).trans (psw _ w)

/-- The state an answer comes with, from the answer's equation. -/
theorem of_eq {α : Type} {s t : State} {p : α × State} {x : α} (h : p = (x, t)) (g : s.Updates t) :
    s.Updates p.2 := by
  rw [h]
  exact g

theorem of_answer {α : Type} {s t : State} {p : α × State} {x : α} (h : p = (x, t)) (g : s.Updates p.2) :
    s.Updates t := by
  rw [h] at g
  exact g

/-! ## Reads, stores and the stack -/

theorem look (s : State) (a : Long) : s.Updates (s.look a).2 := by
  rw [State.look]
  cases s.place a with
  | sfr off => exact tell s _
  | _ => exact refl s

theorem look16 (s : State) (a : Long) : s.Updates (s.look16 a).2 := by
  cases h : s.sfrSpan a 2 with
  | some off => exact of_eq (State.look16_of_sfr h) (tell s _)
  | none => exact of_eq (State.look16_of_bytes h) ((look s a).trans (look _ _))

theorem look24 (s : State) (a : Long) : s.Updates (s.look24 a).2 := by
  cases h : s.sfrSpan a 3 with
  | some off => exact of_eq (State.look24_of_sfr h) (tell s _)
  | none => exact of_eq (State.look24_of_bytes h) (((look s a).trans (look _ _)).trans (look _ _))

theorem store16 (s : State) (a : Long) (w : Word) : s.Updates (s.store16 a w) := by
  rw [State.store16]
  cases s.sfrSpanW a 2 with
  | some off => exact tell s _
  | none => exact (store s a _).trans (store _ _ _)

theorem store24 (s : State) (a : Long) (l : Long) : s.Updates (s.store24 a l) := by
  rw [State.store24]
  cases s.sfrSpanW a 3 with
  | some off => exact tell s _
  | none => exact ((store s a _).trans (store _ _ _)).trans (store _ _ _)

theorem push16 (s : State) (w : Word) : s.Updates (s.push16 w) := (store16 s _ w).trans (setSp _ _)
theorem push24 (s : State) (l : Long) : s.Updates (s.push24 l) := (store24 s _ l).trans (setSp _ _)
theorem pop16 (s : State) : s.Updates s.pop16.2 := (look16 s _).trans (setSp _ _)
theorem pop24 (s : State) : s.Updates s.pop24.2 := (look24 s _).trans (setSp _ _)

/-! ## Registers -/

theorem setRam16 (s : State) {k : Nat} (w : Word) (hlo : RegByte k) (hhi : RegByte (k + 1)) :
    s.Updates (s.setRam16 k w) := (setRam8 s _ hlo).trans (setRam8 _ _ hhi)

theorem setR8 (s : State) (n : R8) (v : Byte) : s.Updates (s.setR8 n v) := setRam8 s v (regKey_range _ n)

theorem setRpOf (s : State) (b : BitVec 3) (n : RP) (w : Word) : s.Updates (s.setRpOf b n w) :=
  have hk := pairKey_range b n
  setRam16 s w ⟨hk.1, by omega⟩ ⟨by omega, hk.2⟩

theorem setRp (s : State) (n : RP) (w : Word) : s.Updates (s.setRp n w) := setRpOf s _ n w

theorem setRg (s : State) (g : RG) (l : Long) : s.Updates (s.setRg g l) := (setRp s g.pair _).trans (ext _ _ _)

theorem setA (s : State) (v : Byte) : s.Updates (s.setA v) := setR8 s _ v
theorem setAx (s : State) (w : Word) : s.Updates (s.setAx w) := setRp s _ w
theorem setAxde (s : State) (v : BitVec 32) : s.Updates (s.setAxde v) := (setAx s _).trans (setRp _ _ _)

/-! ## Operands -/

theorem bump (s : State) (m : Mem) (n : Nat) : s.Updates (s.bump m n) := by
  unfold State.bump
  split
  case h_5 => exact refl s
  all_goals exact setRg s _ _

theorem after8 (s : State) (o : Op8) : s.Updates (s.after8 o) := by
  cases o with
  | mem m => exact bump s m 1
  | _ => exact refl s

theorem after16 (s : State) (o : Op16) : s.Updates (s.after16 o) := by
  cases o with
  | mem m => exact bump s m 2
  | _ => exact refl s

theorem after24 (s : State) (o : Op24) : s.Updates (s.after24 o) := by
  cases o with
  | mem m => exact bump s m 3
  | _ => exact refl s

theorem lookIndP (s : State) (x : Saddr) : s.Updates (s.lookIndP x).2 := of_eq rfl (look16 s (s.eaSaddr x))
theorem lookIndG (s : State) (x : Saddr) : s.Updates (s.lookIndG x).2 := look24 s (s.eaSaddr x)

theorem locate8 (s : State) (o : Op8) : s.Updates (s.locate8 o).2 := by
  cases o with
  | indP x => exact of_eq rfl (lookIndP s x)
  | indG x => exact of_eq rfl (lookIndG s x)
  | _ => exact refl s

theorem locate16 (s : State) (o : Op16) : s.Updates (s.locate16 o).2 := by
  cases o with
  | indP x => exact of_eq rfl (lookIndP s x)
  | indG x => exact of_eq rfl (lookIndG s x)
  | _ => exact refl s

theorem locate24 (s : State) (o : Op24) : s.Updates (s.locate24 o).2 := by
  cases o with
  | indG x => exact of_eq rfl (lookIndG s x)
  | _ => exact refl s

theorem lookLoc8 (s : State) (l : Loc8) : s.Updates (l.look s).2 := by
  cases l with
  | mem a => exact look s a
  | pswh => exact draw s
  | _ => exact refl s

theorem lookLoc16 (s : State) (l : Loc16) : s.Updates (l.look s).2 := by
  cases l with
  | mem a => exact look16 s a
  | pswSfr o => exact (lookLoc8 s _).trans (lookLoc8 _ _)
  | _ => exact refl s

theorem lookLoc24 (s : State) (l : Loc24) : s.Updates (l.look s).2 := by
  cases l with
  | mem a => exact look24 s a
  | _ => exact refl s

end State.Updates

/-- Where the place is in internal RAM, it is one of the registers. -/
def Loc8.InRegs : Loc8 → Prop
  | .ram k => RegByte k
  | _ => True

def Loc16.InRegs : Loc16 → Prop
  | .ram k => RegByte k ∧ RegByte (k + 1)
  | _ => True

def Loc24.InRegs : Loc24 → Prop
  | .reg k _ => RegByte k ∧ RegByte (k + 1)
  | _ => True

theorem pairKey_regBytes (b : BitVec 3) (n : RP) : RegByte (pairKey b n) ∧ RegByte (pairKey b n + 1) :=
  have hk := pairKey_range b n
  ⟨⟨hk.1, by omega⟩, ⟨by omega, hk.2⟩⟩

theorem State.sfrLoc_inRegs (s : State) (o : Byte) : (s.sfrLoc o).InRegs := by
  unfold State.sfrLoc
  repeat' split
  all_goals trivial

theorem State.sfrNext_inRegs (s : State) (o : Byte) : (s.sfrNext o).InRegs := by
  unfold State.sfrNext
  split
  · trivial
  · exact s.sfrLoc_inRegs _

theorem State.locate8_inRegs (s : State) (o : Op8) : (s.locate8 o).1.InRegs := by
  cases o with
  | a => exact regKey_range _ _
  | r n => exact regKey_range _ _
  | sfr o => exact s.sfrLoc_inRegs o
  | _ => trivial

theorem State.locate16_inRegs (s : State) (o : Op16) : (s.locate16 o).1.InRegs := by
  cases o with
  | ax => exact pairKey_regBytes _ _
  | rp n => exact pairKey_regBytes _ _
  | sfr o => unfold State.locate16; dsimp only; split <;> trivial
  | _ => trivial

theorem State.locate24_inRegs (s : State) (o : Op24) : (s.locate24 o).1.InRegs := by
  cases o with
  | rg g => exact pairKey_regBytes _ _
  | _ => trivial

theorem State.locateBit_inRegs (s : State) (x : BitLoc) : (s.locateBit x).InRegs := by
  cases x with
  | regX => exact regKey_range _ _
  | regA => exact regKey_range _ _
  | sfr o => exact s.sfrLoc_inRegs o
  | _ => trivial

theorem State.locateLoop_inRegs (s : State) (t : LoopReg) : (s.locateLoop t).InRegs := by
  cases t with
  | saddr x => trivial
  | _ => exact regKey_range _ _

namespace State.Updates

theorem storeLoc8 (s : State) {l : Loc8} (v : Byte) (hl : l.InRegs) : s.Updates (l.store v s) := by
  cases l with
  | ram k => exact setRam8 s v hl
  | imm b => exact refl s
  | mem a => exact store s a v
  | pswl => exact psw s _
  | pswh => exact psw s _
  | ext i => exact ext s i v

theorem storeLoc16 (s : State) {l : Loc16} (w : Word) (hl : l.InRegs) : s.Updates (l.store w s) := by
  cases l with
  | ram k => exact setRam16 s w hl.1 hl.2
  | imm b => exact refl s
  | mem a => exact store16 s a w
  | pswSfr o => exact (storeLoc8 s _ (s.sfrLoc_inRegs o)).trans (storeLoc8 _ _ (s.sfrNext_inRegs o))

theorem storeLoc24 (s : State) {l : Loc24} (v : Long) (hl : l.InRegs) : s.Updates (l.store v s) := by
  cases l with
  | reg k i => exact (setRam16 s _ hl.1 hl.2).trans (ext _ _ _)
  | imm b => exact refl s
  | mem a => exact store24 s a v
  | sp => exact setSp s v

theorem lookBit (s : State) (l : Loc8) (b : Fin 8) : s.Updates (l.lookBit b s).2 := by
  cases l with
  | pswh =>
    rw [Loc8.lookBit]
    split
    · exact draw s
    · exact refl s
  | _ => exact lookLoc8 s _

theorem storeBit (s : State) {l : Loc8} (t : Byte) (b : Fin 8) (v : Bool) (hl : l.InRegs) :
    s.Updates (l.storeBit t b v s) := by
  cases l with
  | pswl => exact psw s _
  | pswh => exact psw s _
  | imm _ => exact refl s
  | _ => exact storeLoc8 s _ hl

/-! ## Branches, interrupts, shifts, adjustments and the pass of a string instruction -/

theorem branchWhen (s : State) {p : Prop} [Decidable p] (d : Byte) : s.Updates (if p then s.branch d else s) := by
  split
  · exact pc s _
  · exact refl s

theorem acknowledge (s : State) (vec : Nat) (ret : PAddr) : s.Updates (s.acknowledge vec ret) :=
  ((((store16 s _ _).trans (store16 _ _ _)).trans (setSp _ _)).trans (look16 _ _)).trans (pcPsw _ _ _)

theorem returnFromStack (s : State) : s.Updates s.returnFromStack :=
  (((look16 s _).trans (look16 _ _)).trans (setSp _ _)).trans (pcPsw _ _ _)

theorem contextSwitch (s : State) (n : BitVec 3) (ret : PAddr) : s.Updates (s.contextSwitch n ret) :=
  ((setRpOf s n _ _).trans (setRpOf _ n _ _)).trans (pcPsw _ _ _)

theorem contextReturn (s : State) (w : Word) : s.Updates (s.contextReturn w) :=
  (setRp s _ w).trans (pcPsw _ _ _)

theorem rotate (s : State) (f : Place1 8) (n : R8) (c : Fin 8) : s.Updates (s.rotate f n c) := by
  unfold State.rotate
  split
  · exact refl s
  · exact (setR8 s n _).trans (psw _ _)

theorem shift8 (s : State) (f : Place1 8) (n : R8) (c : Fin 8) : s.Updates (s.shift8 f n c) := by
  unfold State.shift8
  split
  · exact refl s
  · exact (setR8 s n _).trans (psw _ _)

theorem shift16 (s : State) (f : Place1 16) (n : RP) (c : Fin 8) : s.Updates (s.shift16 f n c) := by
  unfold State.shift16
  split
  · exact refl s
  · exact (setRp s n _).trans (psw _ _)

theorem setProduct (s : State) (n : RP) (p : BitVec 32) : s.Updates (s.setProduct n p) :=
  (setRp s n _).trans (setAx _ _)

theorem setAdjusted (s : State) (v : Byte) (cy ac : Bool) : s.Updates (s.setAdjusted v cy ac) :=
  (setA s v).trans (psw _ _)

/-- The pointers and the counter after one pass, before the decision on another. -/
theorem pointersAndCounter (s : State) (block : Bool) (l : Long) (f : State → Long) (g : State → Byte) :
    let t := s.setRg .tde l
    let u := if block then t.setRg .whl (f t) else t
    s.Updates (u.setR8 u.regC (g u)) := by
  intro t u
  have hu : t.Updates u := by
    cases block
    · exact refl t
    · exact setRg t .whl (f t)
  exact ((setRg s .tde l).trans hu).trans (setR8 u u.regC (g u))

theorem orAgain {s t : State} {p : Prop} [Decidable p] (n : PAddr) (h : s.Updates t) :
    s.Updates (if p then t else t.again n) := by
  split
  · exact h
  · exact h.trans (pc t _)

theorem endPass (s : State) (block : Bool) (d : Dir) (stop : Psw → Bool) : s.Updates (s.endPass block d stop) :=
  orAgain 2 (pointersAndCounter s block _ (fun t => stepBy d (t.rg .whl)) (fun u => u.r8 u.regC - 1))

end State.Updates

/-! ## Actions made of such updates -/

/-- Where the action answers, its state comes by updates of the data. -/
def OnlyData {α : Type} (m : Act α) : Prop := ∀ ⦃s t : State⦄ ⦃x : α⦄, m s = .ok (x, t) → s.Updates t

/-- `x` is an answer of the action. -/
def Answers {α : Type} (m : Act α) (x : α) : Prop := ∃ s t, m s = .ok (x, t)

namespace OnlyData

variable {α β : Type}

theorem updates {m : Act Unit} {s t : State} (h : run m s = .next t) (hm : OnlyData m) : s.Updates t :=
  hm (run_next.mp h)

theorem of_pure (x : α) : OnlyData (pure x) := by
  intro s t y h
  cases h
  exact .refl s

theorem of_refuse (r : Refusal) : OnlyData (refuse r : Act α) := by
  intro s t y h
  cases h

/-- Two actions in a row; the second has an answer of the first. -/
theorem bind {m : Act α} {f : α → Act β} (hm : OnlyData m) (hf : ∀ x, Answers m x → OnlyData (f x)) :
    OnlyData (m >>= f) := by
  intro s t y h
  obtain ⟨x, u, hx, hy⟩ := bind_ok.mp h
  exact (hm hx).trans (hf x ⟨s, u, hx⟩ hy)

/-- The same where the answer does not matter. -/
theorem andThen {m : Act α} {f : α → Act β} (hm : OnlyData m) (hf : ∀ x, OnlyData (f x)) : OnlyData (m >>= f) :=
  hm.bind fun x _ => hf x

theorem of_get : OnlyData (get : Act State) := by
  intro s t y h
  cases h
  exact .refl s

/-- The state read and replaced. -/
theorem getSet {g : State → State} {f : State → Act β} (hg : ∀ s : State, s.Updates (g s)) (hf : ∀ s, OnlyData (f s)) :
    OnlyData (do let s ← get; set (g s); f s) := by
  intro s t y h
  exact (hg s).trans (hf s h)

theorem of_modify {g : State → State} (hg : ∀ s : State, s.Updates (g s)) : OnlyData (modify g : Act PUnit) := by
  intro s t y h
  cases h
  exact hg s

theorem of_draw : OnlyData draw := by
  intro s t y h
  cases h
  exact .draw s

theorem of_ite {p : Prop} [Decidable p] {m n : Act α} (hm : OnlyData m) (hn : OnlyData n) :
    OnlyData (if p then m else n) := by
  split
  · exact hm
  · exact hn

/-- A step that is made only on a condition, and what follows it. -/
theorem of_when {p : Prop} [Decidable p] {m : Act PUnit} {f : PUnit → Act β} (hm : OnlyData m)
    (hf : ∀ x, OnlyData (f x)) : OnlyData (if p then m >>= f else f ⟨⟩) :=
  (hm.andThen hf).of_ite (hf _)

theorem guarded {ok : State → Bool} {f : State → α × State} (hf : ∀ s : State, s.Updates (f s).2) :
    OnlyData (guarded ok f) := by
  intro s t y h
  exact .of_answer (guarded_ok.mp h).2 (hf s)

theorem guardedSet {ok : State → Bool} {f : State → State} (hf : ∀ s : State, s.Updates (f s)) :
    OnlyData (guardedSet ok f) := guarded (f := fun s => ((), f s)) hf

/-! ### Memory, stack and interrupts -/

theorem readByte (a : Long) : OnlyData (readByte a) :=
  fun s _ _ h => .of_answer (guarded_ok.mp h).2 (.look s a)
theorem readMem16 (a : Long) : OnlyData (readMem16 a) :=
  fun s _ _ h => .of_answer (guarded_ok.mp h).2 (.look16 s a)
theorem readMem24 (a : Long) : OnlyData (readMem24 a) :=
  fun s _ _ h => .of_answer (guarded_ok.mp h).2 (.look24 s a)
theorem writeByte (a : Long) (v : Byte) : OnlyData (writeByte a v) := guardedSet fun s => .store s a v
theorem writeMem16 (a : Long) (w : Word) : OnlyData (writeMem16 a w) := guardedSet fun s => .store16 s a w
theorem push16 (w : Word) : OnlyData (push16 w) := guardedSet fun s => .push16 s w
theorem push24 (l : Long) : OnlyData (push24 l) := guardedSet fun s => .push24 s l
theorem pop16 : OnlyData pop16 := guarded fun s => .pop16 s
theorem pop24 : OnlyData pop24 := guarded fun s => .pop24 s
theorem popRet : OnlyData popRet := pop24.andThen fun _ => of_pure _
theorem jump (p : PAddr) : OnlyData (jump p) := of_modify fun s => .pc s p
theorem acknowledge (vec : Nat) (ret : PAddr) : OnlyData (acknowledge vec ret) :=
  guardedSet fun s => .acknowledge s vec ret
theorem operandError : OnlyData operandError := of_get.andThen fun _ => acknowledge _ _
theorem returnFromStack : OnlyData returnFromStack := guardedSet .returnFromStack

/-! ### Flags -/

theorem setArith (r : Arith 8) : OnlyData (setArith r) := of_modify fun s => .psw s _
theorem setWide {n : Nat} (r : Arith n) : OnlyData (setWide r) := of_draw.andThen fun _ => of_modify fun s => .psw s _
theorem setLogic (v : Byte) : OnlyData (setLogic v) := of_modify fun s => .psw s _
theorem setIncDec (r : Arith 8) : OnlyData (setIncDec r) := of_modify fun s => .psw s _

/-! ### Operands: a place that is located is a register where it is in internal RAM -/

theorem loc8 (o : Op8) : OnlyData (loc8 o) := guarded fun s => .locate8 s o
theorem loc16 (o : Op16) : OnlyData (loc16 o) := guarded fun s => .locate16 s o
theorem loc24 (o : Op24) : OnlyData (loc24 o) := guarded fun s => .locate24 s o
theorem read8 (l : Loc8) : OnlyData (read8 l) := guarded fun s => .lookLoc8 s l
theorem read16 (l : Loc16) : OnlyData (read16 l) := guarded fun s => .lookLoc16 s l
theorem read24 (l : Loc24) : OnlyData (read24 l) := guarded fun s => .lookLoc24 s l
theorem write8 {l : Loc8} (v : Byte) (hl : l.InRegs) : OnlyData (write8 l v) := guardedSet fun s => .storeLoc8 s v hl
theorem write16 {l : Loc16} (v : Word) (hl : l.InRegs) : OnlyData (write16 l v) :=
  guardedSet fun s => .storeLoc16 s v hl
theorem write24 {l : Loc24} (v : Long) (hl : l.InRegs) : OnlyData (write24 l v) :=
  guardedSet fun s => .storeLoc24 s v hl

end OnlyData

/-- An answer of a guarded action is that of its function. -/
theorem Answers.of_guarded {α : Type} {ok : State → Bool} {f : State → α × State} {x : α}
    (h : Answers (guarded ok f) x) : ∃ s, (f s).1 = x := by
  obtain ⟨s, t, hs⟩ := h
  exact ⟨s, by rw [(guarded_ok.mp hs).2]⟩

theorem Answers.of_bind {α β : Type} {m : Act α} {f : α → Act β} {y : β} (h : Answers (m >>= f) y) :
    ∃ x, Answers m x ∧ Answers (f x) y := by
  obtain ⟨s, t, hs⟩ := h
  obtain ⟨x, u, hx, hy⟩ := bind_ok.mp hs
  exact ⟨x, ⟨s, u, hx⟩, ⟨u, t, hy⟩⟩

theorem Answers.of_pure {α : Type} {x y : α} (h : Answers (pure x) y) : y = x := by
  obtain ⟨s, t, hs⟩ := h
  cases hs
  rfl

theorem Answers.loc8_inRegs {o : Op8} {l : Loc8} (h : Answers (loc8 o) l) : l.InRegs := by
  obtain ⟨s, rfl⟩ := h.of_guarded
  exact s.locate8_inRegs o

theorem Answers.loc16_inRegs {o : Op16} {l : Loc16} (h : Answers (loc16 o) l) : l.InRegs := by
  obtain ⟨s, rfl⟩ := h.of_guarded
  exact s.locate16_inRegs o

theorem Answers.loc24_inRegs {o : Op24} {l : Loc24} (h : Answers (loc24 o) l) : l.InRegs := by
  obtain ⟨s, rfl⟩ := h.of_guarded
  exact s.locate24_inRegs o

theorem Answers.both8_inRegs {d s : Op8} {p : Pair8} (h : Answers (both8 d s) p) : p.ld.InRegs ∧ p.ls.InRegs := by
  obtain ⟨ld, hd, h⟩ := h.of_bind
  obtain ⟨ls, hs, h⟩ := h.of_bind
  obtain ⟨a, -, h⟩ := h.of_bind
  obtain ⟨b, -, h⟩ := h.of_bind
  rw [h.of_pure]
  exact ⟨hd.loc8_inRegs, hs.loc8_inRegs⟩

theorem Answers.both16_inRegs {d s : Op16} {p : Pair16} (h : Answers (both16 d s) p) :
    p.ld.InRegs ∧ p.ls.InRegs := by
  obtain ⟨ld, hd, h⟩ := h.of_bind
  obtain ⟨ls, hs, h⟩ := h.of_bind
  obtain ⟨a, -, h⟩ := h.of_bind
  obtain ⟨b, -, h⟩ := h.of_bind
  rw [h.of_pure]
  exact ⟨hd.loc16_inRegs, hs.loc16_inRegs⟩

theorem Answers.both24_inRegs {d s : Op24} {p : Pair24} (h : Answers (both24 d s) p) :
    p.ld.InRegs ∧ p.ls.InRegs := by
  obtain ⟨ld, hd, h⟩ := h.of_bind
  obtain ⟨ls, hs, h⟩ := h.of_bind
  obtain ⟨a, -, h⟩ := h.of_bind
  obtain ⟨b, -, h⟩ := h.of_bind
  rw [h.of_pure]
  exact ⟨hd.loc24_inRegs, hs.loc24_inRegs⟩

namespace OnlyData

theorem both8 (d s : Op8) : OnlyData (both8 d s) :=
  (loc8 d).andThen fun _ => (loc8 s).andThen fun _ => (read8 _).andThen fun _ => (read8 _).andThen fun _ => of_pure _

theorem both16 (d s : Op16) : OnlyData (both16 d s) :=
  (loc16 d).andThen fun _ => (loc16 s).andThen fun _ => (read16 _).andThen fun _ => (read16 _).andThen fun _ => of_pure _

theorem both24 (d s : Op24) : OnlyData (both24 d s) :=
  (loc24 d).andThen fun _ => (loc24 s).andThen fun _ => (read24 _).andThen fun _ => (read24 _).andThen fun _ => of_pure _

/-! ### The meanings the instructions share -/

theorem arith8 (f : Byte → Byte → Bool → Arith 8) (store : Bool) (d s : Op8) : OnlyData (arith8 f store d s) :=
  (both8 d s).bind fun _ hx => of_get.andThen fun _ => (setArith _).andThen fun _ =>
    (write8 _ hx.both8_inRegs.1).of_when fun _ => of_modify fun t => (State.Updates.after8 t d).trans (.after8 _ s)

theorem logic8 (f : Byte → Byte → Byte) (d s : Op8) : OnlyData (logic8 f d s) :=
  (both8 d s).bind fun _ hx => (setLogic _).andThen fun _ => (write8 _ hx.both8_inRegs.1).andThen fun _ =>
    of_modify fun t => (State.Updates.after8 t d).trans (.after8 _ s)

theorem arith16 (f : Word → Word → Arith 16) (store : Bool) (d s : Op16) : OnlyData (arith16 f store d s) :=
  (both16 d s).bind fun _ hx => (setWide _).andThen fun _ => (write16 _ hx.both16_inRegs.1).of_ite (of_pure _)

theorem arith24 (f : Long → Long → Arith 24) (d s : Op24) : OnlyData (arith24 f d s) :=
  (both24 d s).bind fun _ hx => (setWide _).andThen fun _ => write24 _ hx.both24_inRegs.1

theorem incDec8 (f : Byte → Arith 8) (o : Op8) : OnlyData (incDec8 f o) :=
  (loc8 o).bind fun _ hl => (read8 _).andThen fun _ => (setIncDec _).andThen fun _ => write8 _ hl.loc8_inRegs

theorem change16 (f : Word → Word) (o : Op16) : OnlyData (change16 f o) :=
  (loc16 o).bind fun _ hl => (read16 _).andThen fun _ => write16 _ hl.loc16_inRegs

theorem change24 (f : Long → Long) (o : Op24) : OnlyData (change24 f o) :=
  (loc24 o).bind fun _ hl => (read24 _).andThen fun _ => write24 _ hl.loc24_inRegs

theorem readBit (x : BitLoc) (b : Fin 8) : OnlyData (readBit x b) :=
  guarded fun s => .of_eq rfl (.lookBit s (s.locateBit x) b)

theorem bitToCy (f : Bool → Bool → Bool) (x : BitLoc) (b : Fin 8) : OnlyData (bitToCy f x b) :=
  (readBit x b).andThen fun _ => of_modify fun s => .psw s _

theorem changeBit (x : BitLoc) (b : Fin 8) (f : Bool → Bool) : OnlyData (changeBit x b f) :=
  guardedSet fun s => (State.Updates.lookBit s _ b).trans (.storeBit _ _ b _ (s.locateBit_inRegs x))

theorem changeDst (f : Bool → Bool) (t : BitDst) : OnlyData (changeDst f t) := by
  cases t with
  | cy => exact of_modify fun s => .psw s _
  | bit x b => exact changeBit x b f

theorem targetOf (t : Target) : OnlyData (targetOf t) := by
  refine of_get.andThen fun s => ?_
  cases t with
  | indRp n => exact (readMem16 _).andThen fun _ => of_pure _
  | indRg g => exact (readMem24 _).andThen fun _ => of_pure _
  | _ => exact of_pure _

theorem callTo (t : PAddr) : OnlyData (callTo t) := of_get.andThen fun _ => (push24 _).andThen fun _ => jump t

theorem branch (d : Byte) : OnlyData (modify (·.branch d)) := of_modify fun s => .pc s _

theorem branchBit (want : Bool) (x : BitLoc) (b : Fin 8) (d : Byte) : OnlyData (branchBit want x b d) :=
  (readBit x b).andThen fun _ => (branch d).of_ite (of_pure _)

theorem branchFlip (want : Bool) (x : BitLoc) (b : Fin 8) (d : Byte) : OnlyData (branchFlip want x b d) :=
  of_get.andThen fun s => (readBit x b).andThen fun _ =>
    ((guardedSet fun t => .storeBit t _ b _ (s.locateBit_inRegs x)).andThen fun _ => branch d).of_ite (of_pure _)

/-- One pass after another; the pass that overflows is the last (R480, R481). -/
theorem macLoop (saturate : Bool) (n : Nat) : OnlyData (macLoop saturate n) := by
  induction n with
  | zero => exact of_pure _
  | succ n ih =>
    have overflows {p : Prop} [Decidable p] (v : BitVec 32) : OnlyData (if p then do
        modify (·.setAxde v)
        return true
      else do
        let v ← draw
        modify (·.setAxde v)
        return true) :=
      of_ite ((of_modify fun t => .setAxde t _).andThen fun _ => of_pure _)
        (of_draw.andThen fun _ => (of_modify fun t => .setAxde t _).andThen fun _ => of_pure _)
    refine of_get.andThen fun _ => of_ite (of_refuse _) <| (readMem16 _).andThen fun _ =>
      (readMem16 _).andThen fun _ => of_ite (overflows _) ?_
    exact (of_modify fun t => .setAxde t _).andThen fun _ => (of_modify fun t => .setR8 t _ _).andThen fun _ =>
      (of_modify fun t => .setR8 t _ _).andThen fun _ => ih

theorem mac (saturate : Bool) (c : Byte) : OnlyData (mac saturate c) :=
  (macLoop saturate _).andThen fun _ => of_draw.andThen fun _ => of_modify fun s => .psw s _

theorem pushPairs (ps : List (Nat × RP)) (post : Byte) : OnlyData (pushPairs ps post) := by
  induction ps with
  | nil => exact of_pure _
  | cons p ps ih => exact of_ite (of_get.andThen fun _ => (push16 _).andThen fun _ => ih) ih

theorem popPairs (ps : List (Nat × RP)) (post : Byte) : OnlyData (popPairs ps post) := by
  induction ps with
  | nil => exact of_pure _
  | cons p ps ih =>
    exact of_ite (pop16.andThen fun _ => (of_modify fun s => .setRp s _ _).andThen fun _ => ih) ih

theorem pushuItem (s : State) (p : Nat × RP) : s.Updates (s.pushuItem p).2 := by
  unfold State.pushuItem
  split
  · exact .of_eq rfl (.draw s)
  · exact .refl s

theorem pushuPairs (ps : List (Nat × RP)) (post : Byte) : OnlyData (pushuPairs ps post) := by
  induction ps with
  | nil => exact of_pure _
  | cons p ps ih =>
    exact of_ite (getSet (fun s => pushuItem s p) fun _ => (writeMem16 _ _).andThen fun _ =>
      (of_modify fun t => .setRg t _ _).andThen fun _ => ih) ih

theorem popuPairs (ps : List (Nat × RP)) (post : Byte) (psw : Option Word) : OnlyData (popuPairs ps post psw) := by
  induction ps generalizing psw with
  | nil => exact of_pure _
  | cons p ps ih =>
    exact of_ite (of_get.andThen fun _ => (readMem16 _).andThen fun _ =>
      (of_modify fun t => .setRg t _ _).andThen fun _ =>
      of_ite (ih _) ((of_modify fun t => .setRp t _ _).andThen fun _ => ih _)) (ih _)

theorem pinCheck (o : Byte) : OnlyData (pinCheck o) :=
  getSet (fun s => .tell s _) fun _ => of_pure _

theorem tableLoop (n : Nat) (a : Long) : OnlyData (tableLoop n a) := by
  induction n generalizing a with
  | zero => exact of_pure _
  | succ n ih => exact (readMem16 a).andThen fun _ => (writeMem16 _ _).andThen fun _ => ih _

theorem endPass (block : Bool) (d : Dir) (stop : Psw → Bool) : OnlyData (endPass block d stop) :=
  of_modify fun s => .endPass s block d stop

theorem compareA : OnlyData compareA :=
  of_get.andThen fun _ => (readByte _).andThen fun _ => of_get.andThen fun _ => setArith _

theorem compareBlock : OnlyData compareBlock :=
  of_get.andThen fun _ => (readByte _).andThen fun _ => of_get.andThen fun _ => (readByte _).andThen fun _ =>
    setArith _

/-! ### The instructions with an action of their own: a next state comes by updates of the data -/

section Exec

variable {st t : State}

theorem execMovw {d s : Op16} (h : execMovw d s st = .next t) : st.Updates t :=
  updates h <| (loc16 d).bind fun _ hl => (loc16 s).andThen fun _ => (read16 _).andThen fun _ =>
    (write16 _ hl.loc16_inRegs).andThen fun _ => of_modify fun u => (State.Updates.after16 u d).trans (.after16 _ s)

theorem execMovg {d s : Op24} (h : execMovg d s st = .next t) : st.Updates t :=
  updates h <| (loc24 d).bind fun _ hl => (loc24 s).andThen fun _ => (read24 _).andThen fun _ =>
    (write24 _ hl.loc24_inRegs).andThen fun _ => of_modify fun u => (State.Updates.after24 u d).trans (.after24 _ s)

theorem execXch {d s : Op8} (h : execXch d s st = .next t) : st.Updates t := by
  refine updates h <| (both8 d s).bind fun x hx => ?_
  have hd := fun v => write8 v hx.both8_inRegs.1
  have hs := fun v => write8 v hx.both8_inRegs.2
  have after := of_modify fun u => State.Updates.after8 u s
  exact of_ite ((hs _).andThen fun _ => (hd _).andThen fun _ => after)
    ((hd _).andThen fun _ => (hs _).andThen fun _ => after)

theorem execXchw {d s : Op16} (h : execXchw d s st = .next t) : st.Updates t := by
  refine updates h <| (both16 d s).bind fun x hx => ?_
  have hd := fun v => write16 v hx.both16_inRegs.1
  have hs := fun v => write16 v hx.both16_inRegs.2
  have after := of_modify fun u => State.Updates.after16 u s
  exact of_ite ((hs _).andThen fun _ => (hd _).andThen fun _ => after)
    ((hd _).andThen fun _ => (hs _).andThen fun _ => after)

theorem execDivuw {n : R8} (h : execDivuw n st = .next t) : st.Updates t :=
  updates h <| of_modify fun s => (State.Updates.setAx s _).trans (.setR8 _ n _)

theorem execDivux {n : RP} (h : execDivux n st = .next t) : st.Updates t :=
  updates h <| of_modify fun s => (State.Updates.setAxde s _).trans (.setRp _ n _)

theorem execSacw (h : execSacw st = .next t) : st.Updates t :=
  updates h <| of_get.andThen fun _ => (readMem16 _).andThen fun _ => (readMem16 _).andThen fun _ =>
    (of_modify fun s => .setAx s _).andThen fun _ => of_draw.andThen fun _ =>
    (of_modify fun s => .psw s _).andThen fun _ => (of_modify fun s => .setRg s _ _).andThen fun _ =>
    (of_modify fun s => .setRg s _ _).andThen fun _ => of_ite (of_pure _) <|
    (of_modify fun s => .setR8 s _ _).andThen fun _ => of_get.andThen fun _ =>
    of_ite (of_pure _) (of_modify fun s => .pc s _)

theorem execRor4 {m : Mem3} (h : execRor4 m st = .next t) : st.Updates t :=
  updates h <| of_get.andThen fun _ => (readByte _).andThen fun _ => (of_modify fun s => .setA s _).andThen fun _ =>
    writeByte _ _

theorem execRol4 {m : Mem3} (h : execRol4 m st = .next t) : st.Updates t :=
  updates h <| of_get.andThen fun _ => (readByte _).andThen fun _ => (of_modify fun s => .setA s _).andThen fun _ =>
    writeByte _ _

theorem execMov1To {x : BitLoc} {b : Fin 8} (h : execMov1To x b st = .next t) : st.Updates t :=
  updates h <| of_get.andThen fun _ => changeBit x b _

theorem execPush {o : StackOp} (h : execPush o st = .next t) : st.Updates t := by
  cases o with
  | psw =>
    exact updates h <| guardedSet fun s =>
      (State.Updates.draw s).trans ((State.Updates.store _ _ _).trans ((State.Updates.store _ _ _).trans (.setSp _ _)))
  | sfrp o => exact updates h <| (loc16 _).andThen fun _ => (read16 _).andThen fun _ => push16 _
  | sfr o =>
    exact updates h <| (loc8 _).andThen fun _ => (read8 _).andThen fun _ => of_get.andThen fun _ =>
      (writeByte _ _).andThen fun _ => of_modify fun s => .setSp s _
  | post p => exact updates h <| pushPairs _ p
  | rg g => exact updates h <| of_get.andThen fun _ => push24 _

theorem execPop {o : StackOp} (h : execPop o st = .next t) : st.Updates t := by
  cases o with
  | psw =>
    exact updates h <| of_get.andThen fun _ => (readByte _).andThen fun _ => (readByte _).andThen fun _ =>
      of_modify fun s => (State.Updates.setSp s _).trans (.psw _ _)
  | sfrp o =>
    exact updates h <| pop16.andThen fun _ => (loc16 _).bind fun _ hl => write16 _ hl.loc16_inRegs
  | sfr o =>
    exact updates h <| of_get.andThen fun _ => (readByte _).andThen fun _ =>
      (of_modify fun s => .setSp s _).andThen fun _ => (loc8 _).bind fun _ hl => write8 _ hl.loc8_inRegs
  | post p => exact updates h <| popPairs _ p
  | rg g => exact updates h <| pop24.andThen fun _ => of_modify fun s => .setRg s g _

theorem execPopu {p : Byte} (h : execPopu p st = .next t) : st.Updates t := by
  refine updates h <| (popuPairs _ p none).andThen fun psw => ?_
  cases psw with
  | none => exact of_pure _
  | some w => exact of_modify fun s => .psw s _

theorem execCall {x : Target} (h : execCall x st = .next t) : st.Updates t :=
  updates h <| (targetOf x).andThen fun _ => callTo _

theorem execCallt {n : Fin 32} (h : execCallt n st = .next t) : st.Updates t :=
  updates h <| (readMem16 _).andThen fun _ => callTo _

theorem execBrk (h : execBrk st = .next t) : st.Updates t := updates h <| of_get.andThen fun _ => acknowledge _ _

theorem execRet (h : execRet st = .next t) : st.Updates t := updates h <| popRet.andThen fun _ => jump _

theorem execBr {x : Target} (h : execBr x st = .next t) : st.Updates t :=
  updates h <| (targetOf x).andThen fun _ => jump _

theorem execDbnz {x : LoopReg} {d : Byte} (h : execDbnz x d st = .next t) : st.Updates t :=
  updates h <| of_get.andThen fun s => (read8 _).andThen fun _ =>
    (write8 _ (s.locateLoop_inRegs x)).andThen fun _ => (branch d).of_ite (of_pure _)

theorem execChkl {o : Byte} (h : execChkl o st = .next t) : st.Updates t :=
  updates h <| (pinCheck o).andThen fun _ => setLogic _

theorem execChkla {o : Byte} (h : execChkla o st = .next t) : st.Updates t :=
  updates h <| (pinCheck o).andThen fun _ => (of_modify fun s => .setA s _).andThen fun _ => setLogic _

theorem execMovtblw {lo c : Byte} (h : execMovtblw lo c st = .next t) : st.Updates t :=
  updates h <| of_get.andThen fun _ => of_ite (of_refuse _) (tableLoop _ _)

theorem execMovm {d : Dir} (h : execMovm d st = .next t) : st.Updates t :=
  updates h <| of_get.andThen fun _ => (writeByte _ _).andThen fun _ => endPass _ d _

theorem execXchm {d : Dir} (h : execXchm d st = .next t) : st.Updates t :=
  updates h <| of_get.andThen fun _ => (readByte _).andThen fun _ => (writeByte _ _).andThen fun _ =>
    (of_modify fun s => .setA s _).andThen fun _ => endPass _ d _

theorem execMovbk {d : Dir} (h : execMovbk d st = .next t) : st.Updates t :=
  updates h <| of_get.andThen fun _ => (readByte _).andThen fun _ => (writeByte _ _).andThen fun _ => endPass _ d _

theorem execXchbk {d : Dir} (h : execXchbk d st = .next t) : st.Updates t :=
  updates h <| of_get.andThen fun _ => (readByte _).andThen fun _ => (readByte _).andThen fun _ =>
    (writeByte _ _).andThen fun _ => of_get.andThen fun _ => (writeByte _ _).andThen fun _ => endPass _ d _

end Exec

end OnlyData

/-! ## The instructions with an update of the control state -/

theorem State.Updates.ofInstr {s t : State} (h : s.Updates t) (i : Instr) : InstrUpdates i s t :=
  StepChain.mono (fun _ _ => Or.inl) h

theorem OwnUpdate.updates {i : Instr} {s t : State} (h : OwnUpdate i s t) : InstrUpdates i s t :=
  StepChain.single (.inr h)

theorem InstrUpdates.trans {i : Instr} {s t u : State} (h : InstrUpdates i s t) (g : InstrUpdates i t u) :
    InstrUpdates i s u := StepChain.trans h g

section Own

variable {st t : State}

/-- MOV sets HOLD when the destination is PSWL (40_mov R262). -/
theorem execMov_updates {d s : Op8} (h : execMov d s st = .next t) : InstrUpdates (.mov d s) st t := by
  obtain ⟨ld, u, hld, h⟩ := bind_ok.mp (run_next.mp h)
  obtain ⟨ls, u', hls, h⟩ := bind_ok.mp h
  obtain ⟨v, w, hv, h⟩ := bind_ok.mp h
  obtain ⟨_, w', hw, h⟩ := bind_ok.mp h
  have moved : st.Updates ((w'.after8 d).after8 s) :=
    ((((OnlyData.loc8 d hld).trans (OnlyData.loc8 s hls)).trans (OnlyData.read8 ls hv)).trans
      (OnlyData.write8 v (Answers.loc8_inRegs ⟨_, _, hld⟩) hw)).trans ((State.Updates.after8 w' d).trans (.after8 _ s))
  by_cases hd : d = .pswl
  · subst hd
    cases h
    exact (moved.ofInstr _).trans (OwnUpdate.hold (.inr (.inr (.inr ⟨s, rfl⟩)))).updates
  · rw [bind_apply, modify_apply, if_neg hd] at h
    cases h
    exact moved.ofInstr _

theorem complements_iff (b3 b4 : Byte) : complements b3 b4 = true ↔ b3 ^^^ b4 = 0xFF#8 := beq_iff_eq

theorem execMovStbc_updates {nb b : Byte} (h : execMovStbc nb b st = .next t) :
    InstrUpdates (.movStbc nb b) st t := by
  unfold execMovStbc at h
  split at h
  next hc =>
    cases h
    exact (OwnUpdate.stbc ((complements_iff nb b).mp hc)).updates
  next => exact (OnlyData.updates h OnlyData.operandError).ofInstr _

theorem execMovWdm_updates {nb b : Byte} (h : execMovWdm nb b st = .next t) :
    InstrUpdates (.movWdm nb b) st t := by
  obtain ⟨s, u, hs, h⟩ := bind_ok.mp (run_next.mp h)
  cases hs
  split at h
  next hwdt =>
    split at h
    next hc =>
      cases h
      exact (OwnUpdate.wdm ((complements_iff nb b).mp hc) hwdt).updates
    next => exact (OnlyData.operandError h).ofInstr _
  next => cases h

/-- LOCATION moves the area or traps, and sets HOLD in either case (52_cpu_control R752). -/
theorem execLocation_updates {lo hi : Byte} (h : execLocation lo hi st = .next t) :
    InstrUpdates (.location lo hi) st t := by
  have held (u : State) : InstrUpdates (.location lo hi) u u.held :=
    (OwnUpdate.hold (.inr (.inr (.inl ⟨lo, hi, rfl⟩)))).updates
  unfold execLocation at h
  split at h
  next hc =>
    cases h
    exact (OwnUpdate.location ((complements_iff lo hi).mp hc)).updates.trans (held _)
  next =>
    obtain ⟨_, u, hu, h⟩ := bind_ok.mp (run_next.mp h)
    cases h
    exact ((OnlyData.operandError hu).ofInstr _).trans (held u)

theorem execReti_updates (h : execReti st = .next t) : InstrUpdates .reti st t := by
  obtain ⟨_, u, hu, h⟩ := bind_ok.mp (run_next.mp h)
  cases h
  exact ((OnlyData.returnFromStack hu).ofInstr _).trans (OwnUpdate.ispr (.inl rfl)).updates

theorem execRetcs_updates {w : Word} (h : execRetcs w st = .next t) : InstrUpdates (.retcs w) st t := by
  cases h
  exact ((State.Updates.contextReturn st w).ofInstr _).trans (OwnUpdate.ispr (.inr ⟨w, rfl⟩)).updates

theorem execEi_updates (h : execEi st = .next t) : InstrUpdates .ei st t := by
  cases h
  exact (OwnUpdate.hold (.inl rfl)).updates.trans ((State.Updates.psw _ _).ofInstr _)

theorem execDi_updates (h : execDi st = .next t) : InstrUpdates .di st t := by
  cases h
  exact (OwnUpdate.hold (.inr (.inl rfl))).updates.trans ((State.Updates.psw _ _).ofInstr _)

end Own

/-- What an instruction that completes did: updates of the data and its own update of the control state. -/
theorem exec_updates {i : Instr} {s t : State} (h : exec i s = .next t) : InstrUpdates i s t := by
  have data {i : Instr} (h : s.Updates t) : InstrUpdates i s t := h.ofInstr i
  have runs {m : Act Unit} {i : Instr} (h : run m s = .next t) (hm : OnlyData m) : InstrUpdates i s t :=
    data (OnlyData.updates h hm)
  cases i with
  | mov => exact execMov_updates h
  | movStbc => exact execMovStbc_updates h
  | movWdm => exact execMovWdm_updates h
  | location => exact execLocation_updates h
  | reti => exact execReti_updates h
  | retcs => exact execRetcs_updates h
  | ei => exact execEi_updates h
  | di => exact execDi_updates h
  | movw => exact data (OnlyData.execMovw h)
  | movg => exact data (OnlyData.execMovg h)
  | xch => exact data (OnlyData.execXch h)
  | xchw => exact data (OnlyData.execXchw h)
  | add | addc | sub | subc | cmp => exact runs h (.arith8 ..)
  | and | or | xor => exact runs h (.logic8 ..)
  | addw | subw | cmpw => exact runs h (.arith16 ..)
  | addg | subg => exact runs h (.arith24 ..)
  | mulu | cvtbw => cases h; exact data (.setAx s _)
  | muluw | mulw => cases h; exact data (.setProduct s _ _)
  | divuw => exact data (OnlyData.execDivuw h)
  | divux => exact data (OnlyData.execDivux h)
  | macw | macsw => exact runs h (.mac ..)
  | sacw => exact data (OnlyData.execSacw h)
  | inc | dec => exact runs h (.incDec8 ..)
  | incw | decw => exact runs h (.change16 ..)
  | incg | decg => exact runs h (.change24 ..)
  | adjba | adjbs => cases h; exact data (.setAdjusted s _ _ _)
  | ror | rol | rorc | rolc => cases h; exact data (.rotate s _ _ _)
  | shr | shl => cases h; exact data (.shift8 s _ _ _)
  | shrw | shlw => cases h; exact data (.shift16 s _ _ _)
  | ror4 => exact data (OnlyData.execRor4 h)
  | rol4 => exact data (OnlyData.execRol4 h)
  | mov1Cy | and1 | or1 | xor1 => exact runs h (.bitToCy ..)
  | mov1To => exact data (OnlyData.execMov1To h)
  | not1 | set1 | clr1 => exact runs h (.changeDst ..)
  | push => exact data (OnlyData.execPush h)
  | pushu => exact runs h (.pushuPairs ..)
  | pop => exact data (OnlyData.execPop h)
  | popu => exact data (OnlyData.execPopu h)
  | addwg | subwg => cases h; exact data (.setSp s _)
  | call => exact data (OnlyData.execCall h)
  | callf => exact runs h (.callTo _)
  | callt => exact data (OnlyData.execCallt h)
  | brk => exact data (OnlyData.execBrk h)
  | brkcs => cases h; exact data (.contextSwitch s _ _)
  | ret => exact data (OnlyData.execRet h)
  | retb => exact runs h .returnFromStack
  | retcsb => cases h; exact data (.contextReturn s _)
  | br => exact data (OnlyData.execBr h)
  | bnz | bne | bz | be | bnc | bnl | bc | bl | bnv | bpo | bv | bpe | bp | bn | blt | bge | ble | bgt | bnh | bh =>
    cases h; exact data (.branchWhen s _)
  | bf | bt => exact runs h (.branchBit ..)
  | btclr | bfset => exact runs h (.branchFlip ..)
  | dbnz => exact data (OnlyData.execDbnz h)
  | sel | selAlt | swrs => cases h; exact data (.psw s _)
  | nop => cases h; exact data (.refl s)
  | chkl => exact data (OnlyData.execChkl h)
  | chkla => exact data (OnlyData.execChkla h)
  | movtblw => exact data (OnlyData.execMovtblw h)
  | movm => exact data (OnlyData.execMovm h)
  | xchm => exact data (OnlyData.execXchm h)
  | movbk => exact data (OnlyData.execMovbk h)
  | xchbk => exact data (OnlyData.execXchbk h)
  | cmpme | cmpmne | cmpmc | cmpmnc => exact runs h (OnlyData.compareA.andThen fun _ => .endPass ..)
  | cmpbke | cmpbkne | cmpbkc | cmpbknc => exact runs h (OnlyData.compareBlock.andThen fun _ => .endPass ..)

/-! ## O9 -/

/-- No update of the data touches STBC, WDM or the product. -/
theorem State.DataUpdate.stbc_wdm_cfg {s t : State} (h : s.DataUpdate t) :
    t.stbc = s.stbc ∧ t.wdm = s.wdm ∧ t.cfg = s.cfg := by
  cases h with
  | store a v =>
    obtain ⟨_, _, _, h⟩ := s.store_parts a v
    rw [h]
    exact ⟨rfl, rfl, rfl⟩
  | _ => exact ⟨rfl, rfl, rfl⟩

theorem State.relocate_stbc_wdm_cfg (s : State) (lo : Byte) :
    (s.relocate lo).stbc = s.stbc ∧ (s.relocate lo).wdm = s.wdm ∧ (s.relocate lo).cfg = s.cfg := by
  unfold State.relocate
  repeat' split
  all_goals exact ⟨rfl, rfl, rfl⟩

/-- STBC and WDM hold what they held, or the byte of their own instruction, which has passed the check. -/
theorem InstrUpdates.stbc_wdm {i : Instr} {s t : State} (h : InstrUpdates i s t) :
    t.cfg = s.cfg ∧ (t.stbc = s.stbc ∨ ∃ nb, i = .movStbc nb t.stbc ∧ nb ^^^ t.stbc = 0xFF#8) ∧
      (t.wdm = s.wdm ∨ ∃ nb, i = .movWdm nb t.wdm ∧ nb ^^^ t.wdm = 0xFF#8 ∧ s.cfg.hasWdt = true) := by
  induction h with
  | refl => exact ⟨rfl, .inl rfl, .inl rfl⟩
  | tail _ hupdate ih =>
    obtain ⟨hcfg, hstbc, hwdm⟩ := ih
    rcases hupdate with hdata | hown
    · obtain ⟨es, ew, ec⟩ := hdata.stbc_wdm_cfg
      rw [es, ew, ec]
      exact ⟨hcfg, hstbc, hwdm⟩
    · cases hown with
      | @stbc _ nb _ hc => exact ⟨hcfg, .inr ⟨nb, rfl, hc⟩, hwdm⟩
      | @wdm _ nb _ hc hw => exact ⟨hcfg, hstbc, .inr ⟨nb, rfl, hc, hcfg ▸ hw⟩⟩
      | @location _ lo _ hc =>
        obtain ⟨es, ew, ec⟩ := State.relocate_stbc_wdm_cfg _ lo
        rw [es, ew, ec]
        exact ⟨hcfg, hstbc, hwdm⟩
      | hold => exact ⟨hcfg, hstbc, hwdm⟩
      | ispr => exact ⟨hcfg, hstbc, hwdm⟩

/-- Settles O9, by induction on the updates of the instruction's run. -/
theorem stbcAndWdmOnlyByTheirMov : Obligations.StbcAndWdmOnlyByTheirMov := by
  intro i s t h
  obtain ⟨-, hstbc, hwdm⟩ := (exec_updates h).stbc_wdm
  exact ⟨fun hne => hstbc.resolve_left hne, fun hne => hwdm.resolve_left hne⟩

end Sys2Proof.Machine
end

section
/-! Every step keeps the invariant (O7): each update an instruction is made of keeps it, each acknowledged event
does, and a step is one of the two. -/

namespace Sys2Proof.Machine

theorem Memory.within_write {lo hi a : Nat} {m : Memory} (v : Byte) (h : Memory.within lo hi m) (hlo : lo ≤ a)
    (hhi : a < hi) : Memory.within lo hi (Memory.write m a v) := by
  intro c hc
  rcases Memory.mem_write hc with hold | haddr
  · exact h c hold
  · exact haddr ▸ ⟨hlo, hhi⟩

/-! ## The updates of the fields the invariant speaks of -/

namespace State.Inv

variable {s t : State}

/-- The invariant speaks of RAM, memory, SP, the place of the internal data area and the product only. -/
theorem of_same (h : s.Inv) (hram : t.ram = s.ram) (hmem : t.mem = s.mem) (hsp : t.sp = s.sp)
    (hloc : t.loc0f = s.loc0f) (hdone : t.locDone = s.locDone) (hcfg : t.cfg = s.cfg) : t.Inv where
  ramForm := hram ▸ h.ramForm
  memForm := hmem ▸ h.memForm
  ramArea := by
    have hbase : t.ramBase = s.ramBase := by rw [State.ramBase, State.ramBase, hcfg]
    rw [hram, hbase]
    exact h.ramArea
  memArea := hmem ▸ h.memArea
  spBits := by rw [hsp, hcfg, h.spBits]
  location := by rw [hloc, hdone, hcfg]; exact h.location

theorem setRam8 (h : s.Inv) {k : Nat} (v : Byte) (hlo : s.ramBase ≤ k) (hhi : k < 0xFF00) : (s.setRam8 k v).Inv where
  ramForm := Memory.wf_write k v h.ramForm
  memForm := h.memForm
  ramArea := Memory.within_write v h.ramArea hlo hhi
  memArea := h.memArea
  spBits := h.spBits
  location := h.location

theorem writeMem (h : s.Inv) {n : Nat} (v : Byte) (hn : n < 0x1000000) :
    ({ s with mem := Memory.write s.mem n v } : State).Inv where
  ramForm := h.ramForm
  memForm := Memory.wf_write n v h.memForm
  ramArea := h.ramArea
  memArea := Memory.within_write v h.memArea (Nat.zero_le n) hn
  spBits := h.spBits
  location := h.location

theorem setSp (h : s.Inv) (v : Long) : (s.setSp v).Inv where
  ramForm := h.ramForm
  memForm := h.memForm
  ramArea := h.ramArea
  memArea := h.memArea
  spBits := by rw [State.setSp_sp, State.setSp_cfg, BitVec.and_assoc, BitVec.and_self]
  location := h.location

theorem tell (h : s.Inv) (e : IoEvent) : (s.tell e).Inv := h.of_same rfl rfl rfl rfl rfl rfl

/-- A write from outside the CPU reaches only the bytes of RAM and of external memory that exist (R106, R842). -/
theorem poke (h : s.Inv) (a : Long) (v : Byte) : (s.poke a v).Inv := by
  rw [State.poke]
  cases hplace : s.place a with
  | ram k =>
    obtain ⟨-, hlo, hhi⟩ := State.place_ram hplace
    exact h.setRam8 v hlo hhi
  | ext n => exact h.writeMem v (State.place_ext hplace ▸ a.isLt)
  | _ => exact h

theorem pokes (h : s.Inv) (ws : List (Long × Byte)) : (s.pokes ws).Inv := by
  unfold State.pokes
  induction ws generalizing s with
  | nil => exact h
  | cons w ws ih => exact ih (h.poke w.1 w.2)

/-- A store is such a write, or an exchange with the host, or nothing. -/
theorem store (h : s.Inv) (a : Long) (v : Byte) : (s.store a v).Inv := by
  have hpoke := h.poke a v
  rw [State.store]
  rw [State.poke] at hpoke
  cases hplace : s.place a with
  | sfr off =>
    rw [State.storeAt]
    split
    · exact h
    · exact h.tell _
  | _ => rw [hplace] at hpoke; exact hpoke

/-- LOCATION moves the area only where LOC_DONE becomes 1 and the product allows it (R56, R752). -/
theorem relocate (h : s.Inv) (lo : Byte) : (s.relocate lo).Inv := by
  have moved (l : Bool) (hl : l = true → s.cfg.locationFixed0 = false) :
      ({ s with loc0f := l, locDone := true } : State).Inv :=
    ⟨h.ramForm, h.memForm, h.ramArea, h.memArea, h.spBits, fun hx => ⟨rfl, hl hx⟩⟩
  unfold State.relocate
  split
  · exact h
  · split
    · exact moved false nofun
    · split
      · exact moved _ fun hx => (Bool.not_eq_true' _).mp hx
      · exact h

/-- RESET input keeps the memories and puts the area back to LOCATION 0H (R901). -/
theorem initialized (h : s.Inv) : s.initialized.Inv where
  ramForm := h.ramForm
  memForm := h.memForm
  ramArea := h.ramArea
  memArea := h.memArea
  spBits := ((h.tell .reset).setSp _).spBits
  location := nofun

end State.Inv

/-! ## Instructions -/

theorem State.DataUpdate.inv {s t : State} (hupdate : s.DataUpdate t) (h : s.Inv) : t.Inv := by
  cases hupdate with
  | sp v => exact h.setSp v
  | reg v hk =>
    obtain ⟨hlo, hhi⟩ := hk
    have hbase := s.ramBase_le
    exact h.setRam8 v (by omega) hhi
  | store a v => exact h.store a v
  | _ => exact h.of_same rfl rfl rfl rfl rfl rfl

theorem OwnUpdate.inv {i : Instr} {s t : State} (hupdate : OwnUpdate i s t) (h : s.Inv) : t.Inv := by
  cases hupdate with
  | @location _ lo => exact h.relocate lo
  | _ => exact h.of_same rfl rfl rfl rfl rfl rfl

theorem State.Updates.inv {s t : State} (hupdates : s.Updates t) (h : s.Inv) : t.Inv := by
  induction hupdates with
  | refl => exact h
  | tail _ hstep ih => exact hstep.inv ih

theorem InstrUpdates.inv {i : Instr} {s t : State} (hupdates : InstrUpdates i s t) (h : s.Inv) : t.Inv := by
  induction hupdates with
  | refl => exact h
  | tail _ hstep ih => exact hstep.elim (·.inv ih) (·.inv ih)

theorem exec_inv {i : Instr} {s t : State} (hexec : exec i s = .next t) (h : s.Inv) : t.Inv :=
  (exec_updates hexec).inv h

theorem runInstruction_inv {s t : State} (hrun : runInstruction s = .next t) (h : s.Inv) : t.Inv := by
  obtain ⟨i, rest, -, ⟨u, hexec, rfl⟩ | ⟨-, rfl⟩⟩ := runInstruction_cases hrun
  · have hpast : (s.past (decodedLength s.fetch rest)).Inv := h.of_same rfl rfl rfl rfl rfl rfl
    exact (exec_inv hexec hpast).of_same rfl rfl rfl rfl rfl rfl
  · exact h.of_same rfl rfl rfl rfl rfl rfl

/-! ## Events -/

/-- Where the action answers, it has kept the invariant. -/
def KeepsInv {α : Type} (m : Act α) : Prop := ∀ ⦃s t : State⦄ ⦃x : α⦄, m s = .ok (x, t) → s.Inv → t.Inv

namespace KeepsInv

theorem of_onlyData {α : Type} {m : Act α} (hm : OnlyData m) : KeepsInv m := fun _ _ _ h => (hm h).inv

theorem of_modify {f : State → State} (hf : ∀ s : State, s.Inv → (f s).Inv) : KeepsInv (modify f : Act PUnit) := by
  intro s t x h
  cases h
  exact hf s

theorem andThen {α β : Type} {m : Act α} {f : α → Act β} (hm : KeepsInv m) (hf : ∀ x, KeepsInv (f x)) :
    KeepsInv (m >>= f) := by
  intro s t x h hs
  obtain ⟨y, u, hy, hx⟩ := bind_ok.mp h
  exact hf y hx (hm hy hs)

theorem acked (vec : Nat) : KeepsInv (modify (·.acked vec) : Act PUnit) :=
  of_modify fun _ h => h.of_same rfl rfl rfl rfl rfl rfl

theorem setIspr (f : Ispr → Ispr) : KeepsInv (modify fun t => { t with ispr := f t.ispr } : Act PUnit) :=
  of_modify fun _ h => h.of_same rfl rfl rfl rfl rfl rfl

/-- Taking a request by vectoring: the host is told, PC and PSW are saved, the level joins ISPR (R835, R840). -/
theorem vectored (vec : Nat) (f : Ispr → Ispr) :
    KeepsInv (do
      modify (·.acked vec)
      let s ← get
      acknowledge vec s.pc
      modify fun t => { t with ispr := f t.ispr }) :=
  (acked vec).andThen fun _ => (of_onlyData .of_get).andThen fun _ =>
    (of_onlyData (.acknowledge _ _)).andThen fun _ => setIspr f

theorem takeRequest (r : Request) : KeepsInv (takeRequest r) := by
  unfold Machine.takeRequest
  split
  · exact (acked _).andThen fun _ => (of_onlyData (.readByte _)).andThen fun _ =>
      (of_onlyData (.of_modify fun s => .contextSwitch s _ _)).andThen fun _ => setIspr (·.add r.level)
  · exact vectored r.vec (·.add r.level)

theorem takeEvent (e : Event) : KeepsInv (takeEvent e) := by
  cases e with
  | reset => exact of_onlyData ((OnlyData.readMem16 0).andThen fun _ => .jump _)
  | nmi => exact vectored vecNmi fun i => { i with nmi := true }
  | wdt => exact vectored vecWdt fun i => { i with wdt := true }
  | macroService ws => exact of_modify fun _ h => (h.tell _).pokes ws
  | request r => exact takeRequest r
  | proceed => exact of_onlyData (.of_pure _)

end KeepsInv

theorem State.Inv.entered {s : State} (h : s.Inv) (e : Event) : (s.entered e).Inv := by
  cases e with
  | reset => exact h.initialized
  | _ => exact h

theorem State.Inv.atNextBoundary {s : State} (h : s.Inv) : (s.nextBoundary.2.atBoundary s.nextBoundary.1).Inv := by
  unfold State.nextBoundary
  split <;> exact h.of_same rfl rfl rfl rfl rfl rfl

/-! ## O7 -/

/-- Settles O7: a step does nothing, runs an instruction, whose updates keep the invariant, or takes an event. -/
theorem stepKeepsInvariant : Obligations.StepKeepsInvariant := by
  intro s t hs hstep
  have hboundary := hs.atNextBoundary
  rcases step_cases hstep with ⟨-, -, rfl⟩ | ⟨-, -, hrun⟩ | ⟨-, hnext | ⟨-, rfl⟩⟩
  · exact hboundary.of_same rfl rfl rfl rfl rfl rfl
  · exact runInstruction_inv hrun (hboundary.of_same rfl rfl rfl rfl rfl rfl)
  · exact KeepsInv.takeEvent _ (run_next.mp hnext) (hboundary.entered _)
  · exact (hboundary.entered _).of_same rfl rfl rfl rfl rfl rfl

end Sys2Proof.Machine
end

section
/-! Reads and stores of 1, 2 and 3 bytes, what an address resolves to, and what an access of each place does (O14,
O15; 20_memory R101 to R113, R128, R129). -/

namespace Sys2Proof.Machine

variable {s : State} {a : Long}

/-! ## Words and 24-bit values byte by byte (R102) -/

theorem State.plainN_two : s.plainN a 2 = true ↔ s.plain a = true ∧ s.plain (a + 1) = true := by
  simp [State.plainN, List.range_succ]

theorem State.plainN_three :
    s.plainN a 3 = true ↔ s.plain a = true ∧ s.plain (a + 1) = true ∧ s.plain (a + 2) = true := by
  simp [State.plainN, List.range_succ]

theorem State.readableN_three :
    s.readableN a 3 = true ↔ s.readable a = true ∧ s.readable (a + 1) = true ∧ s.readable (a + 2) = true := by
  simp [State.readableN, List.range_succ]

theorem State.peek16_of_bytes {lo hi : Byte} (h0 : s.peek a = some lo) (h1 : s.peek (a + 1) = some hi) :
    s.peek16 a = some (hi ++ lo) := by
  rw [State.peek16, h0, h1]

theorem State.peek24_of_bytes {lo mid hi : Byte} (h0 : s.peek a = some lo) (h1 : s.peek (a + 1) = some mid)
    (h2 : s.peek (a + 2) = some hi) : s.peek24 a = some (hi ++ (mid ++ lo)) := by
  rw [State.peek24, State.peek16_of_bytes h0 h1, h2]

theorem State.bytes_of_peek16 {w : Word} (h : s.peek16 a = some w) :
    ∃ lo hi : Byte, s.peek a = some lo ∧ s.peek (a + 1) = some hi ∧ w = hi ++ lo := by
  unfold State.peek16 at h
  split at h
  next lo hi h0 h1 => exact ⟨lo, hi, h0, h1, (Option.some.inj h).symm⟩
  next => cases h

theorem State.bytes_of_peek24 {l : Long} (h : s.peek24 a = some l) :
    ∃ lo mid hi : Byte, s.peek a = some lo ∧ s.peek (a + 1) = some mid ∧ s.peek (a + 2) = some hi ∧
      l = hi ++ (mid ++ lo) := by
  unfold State.peek24 at h
  split at h
  next w hi hw h2 =>
    obtain ⟨lo, mid, h0, h1, rfl⟩ := State.bytes_of_peek16 hw
    exact ⟨lo, mid, hi, h0, h1, h2, (Option.some.inj h).symm⟩
  next => cases h

theorem State.look24_of_peek {l : Long} (h : s.peek24 a = some l) :
    s.look24 a = (l, s) ∧ s.readableN a 3 = true := by
  obtain ⟨lo, mid, hi, h0, h1, h2, rfl⟩ := State.bytes_of_peek24 h
  obtain ⟨look0, readable0⟩ := State.look_of_peek h0
  obtain ⟨look1, readable1⟩ := State.look_of_peek h1
  obtain ⟨look2, readable2⟩ := State.look_of_peek h2
  refine ⟨?_, State.readableN_three.mpr ⟨readable0, readable1, readable2⟩⟩
  rw [State.look24_of_bytes (State.sfrSpan_of_peek h0 3), look0, look1, look2, BitVec.append_assoc]
  rfl

theorem long_of_bytes (l : Long) :
    l.extractLsb' 16 8 ++ (l.extractLsb' 8 8 ++ l.extractLsb' 0 8) = l := by
  rw [BitVec.extractLsb'_append_extractLsb'_eq_extractLsb' (by rfl)]
  exact long_of_parts l

/-! ## Stores to plain memory are made byte by byte (R103) -/

theorem State.sfrSpan_of_plain (h : s.plain a = true) (n : Nat) : s.sfrSpan a n = none := by
  rw [State.plain] at h
  rw [State.sfrSpan]
  cases hplace : s.place a with
  | sfr off => rw [hplace] at h; cases h
  | _ => rfl

theorem State.sfrSpanW_of_plain (h : s.plain a = true) (n : Nat) : s.sfrSpanW a n = none := by
  rw [State.sfrSpanW, State.sfrSpan_of_plain h n]

theorem State.store16_of_plain (w : Word) (h : s.plain a = true) :
    s.store16 a w = (s.store a (w.extractLsb' 0 8)).store (a + 1) (w.extractLsb' 8 8) := by
  rw [State.store16, State.sfrSpanW_of_plain h 2]

theorem State.store24_of_plain (l : Long) (h : s.plain a = true) :
    s.store24 a l =
      ((s.store a (l.extractLsb' 0 8)).store (a + 1) (l.extractLsb' 8 8)).store (a + 2) (l.extractLsb' 16 8) := by
  rw [State.store24, State.sfrSpanW_of_plain h 3]

theorem State.plain_store (b : Long) (v : Byte) : (s.store b v).plain a = s.plain a :=
  State.plain_congr (s.store_cfg b v) (s.store_loc0f b v) a

theorem State.peek_store_plain (v : Byte) (hwf : s.wf) (h : s.plain a = true) : (s.store a v).peek a = some v :=
  State.peek_store_same v h hwf.1 hwf.2

theorem State.peek16_store16 (w : Word) (hwf : s.wf) (h : s.plainN a 2 = true) :
    (s.store16 a w).peek16 a = some w := by
  obtain ⟨plain0, plain1⟩ := State.plainN_two.mp h
  have hne : a ≠ a + 1 := by bv_omega
  have lo : (s.store16 a w).peek a = some (w.extractLsb' 0 8) := by
    rw [State.store16_of_plain w plain0, State.peek_store _ hne, State.peek_store_plain _ hwf plain0]
  have hi : (s.store16 a w).peek (a + 1) = some (w.extractLsb' 8 8) := by
    rw [State.store16_of_plain w plain0]
    exact State.peek_store_plain _ (State.wf_store _ _ hwf) (by rwa [State.plain_store])
  rw [State.peek16_of_bytes lo hi, word_of_bytes]

theorem State.peek24_store24 (l : Long) (hwf : s.wf) (h : s.plainN a 3 = true) :
    (s.store24 a l).peek24 a = some l := by
  obtain ⟨plain0, plain1, plain2⟩ := State.plainN_three.mp h
  have hne01 : a ≠ a + 1 := by bv_omega
  have hne02 : a ≠ a + 2 := by bv_omega
  have hne12 : a + 1 ≠ a + 2 := by bv_omega
  have lo : (s.store24 a l).peek a = some (l.extractLsb' 0 8) := by
    rw [State.store24_of_plain l plain0, State.peek_store _ hne02, State.peek_store _ hne01,
      State.peek_store_plain _ hwf plain0]
  have mid : (s.store24 a l).peek (a + 1) = some (l.extractLsb' 8 8) := by
    rw [State.store24_of_plain l plain0, State.peek_store _ hne12]
    exact State.peek_store_plain _ (State.wf_store _ _ hwf) (by rwa [State.plain_store])
  have hi : (s.store24 a l).peek (a + 2) = some (l.extractLsb' 16 8) := by
    rw [State.store24_of_plain l plain0]
    exact State.peek_store_plain _ (State.wf_store _ _ (State.wf_store _ _ hwf))
      (by rwa [State.plain_store, State.plain_store])
  rw [State.peek24_of_bytes lo mid hi, long_of_bytes]

theorem State.Inv.wf (h : s.Inv) : s.wf := ⟨h.ramForm, h.memForm⟩

/-- Settles O14: byte by byte, each byte by the read after a write of the memory it lies in. -/
theorem storeReadsBack : Obligations.StoreReadsBack := by
  intro s a v w l hinv
  exact ⟨State.peek_store_plain v hinv.wf, State.peek16_store16 w hinv.wf, State.peek24_store24 l hinv.wf,
    s.keeps_store a v, s.keeps_store16 a w, s.keeps_store24 a l,
    fun h => (State.look_of_peek h).1, fun h => (State.look16_of_peek h).1, fun h => (State.look24_of_peek h).1⟩

/-! ## What an address resolves to (R106) -/

/-- The address is one of internal RAM. -/
def State.inRam (s : State) (a : Long) : Prop := s.locBase + s.ramBase ≤ a.toNat ∧ a.toNat < s.locBase + 0xFF00

/-- The address is one of the SFR area. -/
def State.inSfr (s : State) (a : Long) : Prop := s.locBase + 0xFF00 ≤ a.toNat ∧ a.toNat ≤ s.locBase + 0xFFFF

theorem State.place_of_inSfr (h : s.inSfr a) : s.place a = .sfr (BitVec.ofNat 8 a.toNat) := if_pos h

theorem State.place_of_inRam (h : s.inRam a) : s.place a = .ram (a.toNat - s.locBase) :=
  (if_neg fun hsfr => Nat.not_le_of_lt h.2 hsfr.1).trans (if_pos h)

theorem State.place_of_rom (hram : ¬s.inRam a) (hsfr : ¬s.inSfr a) (h : a.toNat < s.cfg.romSize) :
    s.place a = .rom a.toNat :=
  (if_neg hsfr).trans ((if_neg hram).trans (if_pos h))

/-- Outside the internal data area and ROM an address is one of external memory where the product has it there. -/
theorem State.place_outside (hram : ¬s.inRam a) (hsfr : ¬s.inSfr a) (hrom : ¬a.toNat < s.cfg.romSize) :
    s.place a =
      if s.cfg.ext.any (fun r => decide (r.1 ≤ a.toNat) && decide (a.toNat ≤ r.2)) then .ext a.toNat
      else .unmapped :=
  (if_neg hsfr).trans ((if_neg hram).trans (if_neg hrom))

theorem any_range_iff (ext : List (Nat × Nat)) (n : Nat) :
    ext.any (fun r => decide (r.1 ≤ n) && decide (n ≤ r.2)) = true ↔ ∃ r ∈ ext, r.1 ≤ n ∧ n ≤ r.2 := by
  simp only [List.any_eq_true, Bool.and_eq_true, decide_eq_true_eq]

/-! ## What a 1-byte access of each place does (R103, R111, R113) -/

theorem readByte_of_place {p : Place} (hplace : s.place a = p) (h : s.readableAt p = true) :
    readByte a s = .ok (s.lookAt p) := by
  rw [readByte_of (by rw [State.readable, hplace, h]), State.look, hplace]

theorem run_writeByte_of_place {p : Place} (v : Byte) (hplace : s.place a = p) (h : s.writableAt p = true) :
    run (writeByte a v) s = .next (s.storeAt p v) := by
  rw [run_of_ok (writeByte_of v (by rw [State.writable, hplace, h])), State.store, hplace]

theorem guarded_deadlock {α : Type} {ok : State → Bool} (f : State → α × State) (h : ok s = false) :
    guarded ok f s = .error (.fault .deadlock) := by
  rw [guarded_apply, h]
  rfl

theorem guardedSet_deadlock {ok : State → Bool} (f : State → State) (h : ok s = false) :
    guardedSet ok f s = .error (.fault .deadlock) := guarded_deadlock (fun t => ((), f t)) h

theorem readByte_deadlock {p : Place} (hplace : s.place a = p) (h : s.readableAt p = false) :
    readByte a s = .error (.fault .deadlock) :=
  guarded_deadlock _ (by rw [State.readable, hplace, h])

theorem run_writeByte_deadlock {p : Place} (v : Byte) (hplace : s.place a = p) (h : s.writableAt p = false) :
    run (writeByte a v) s = .fault .deadlock := by
  have hstop : writeByte a v s = .error (.fault .deadlock) :=
    guardedSet_deadlock (fun t => t.store a v) (by rw [State.writable, hplace, h])
  rw [run, hstop]

theorem State.sfrMapped_iff (o : Byte) :
    s.sfrMapped o = true ↔ s.cfg.sfrMask.getLsbD o.toNat = true ∧ o.toNat < 0xFE := by
  rw [State.sfrMapped, Bool.and_eq_true, decide_eq_true_eq]

theorem State.sfrGuarded_iff (o : Byte) : s.sfrGuarded o = true ↔ o = s.cfg.stbcOff ∨ o = s.cfg.wdmOff := by
  rw [State.sfrGuarded, Bool.or_eq_true, beq_iff_eq, beq_iff_eq]

/-! ## Wide accesses wholly on SFRs are one access of the host (R128, R129) -/

/-- The offsets of an access of `n` SFR bytes from `o` on. -/
def sfrOffsets (o : Byte) (n : Nat) : List Byte := (List.range n).map fun i => o + BitVec.ofNat 8 i

variable {o : Byte} {n : Nat}

theorem State.sfrSpan_of_mapped (hplace : s.place a = .sfr o) (hend : o.toNat + n ≤ 0xFE)
    (hmapped : ∀ p ∈ sfrOffsets o n, s.sfrMapped p = true) : s.sfrSpan a n = some o := by
  have hall : (List.range n).all (fun i => s.sfrMapped (o + BitVec.ofNat 8 i)) = true :=
    List.all_eq_true.mpr (List.forall_mem_map.mp hmapped)
  rw [State.sfrSpan, hplace, State.sfrSpanAt, if_pos (by rw [hall, decide_eq_true hend, Bool.and_self])]

theorem State.sfrSpanW_of_free (hspan : s.sfrSpan a n = some o)
    (hfree : ∀ p ∈ sfrOffsets o n, s.sfrGuarded p = false) : s.sfrSpanW a n = some o := by
  have hany : (List.range n).any (fun i => s.sfrGuarded (o + BitVec.ofNat 8 i)) = false :=
    List.any_eq_false.mpr fun i hi => Bool.eq_false_iff.mp (List.forall_mem_map.mp hfree i hi)
  simp only [State.sfrSpanW, hspan, hany, Bool.false_eq_true, if_false]

theorem State.store16_of_sfr (w : Word) (h : s.sfrSpanW a 2 = some o) :
    s.store16 a w = s.tell (.sfrWrite o 2 (w.setWidth 24)) := by
  rw [State.store16, h]
  rfl

theorem State.store24_of_sfr (l : Long) (h : s.sfrSpanW a 3 = some o) :
    s.store24 a l = s.tell (.sfrWrite o 3 l) := by
  rw [State.store24, h]
  rfl

/-- Settles O15: the branches of `placeIn` in their order, then the accesses place by place. -/
theorem addressesResolve : Obligations.AddressesResolve := by
  refine ⟨?maps, ?places, ?accesses, ?spans⟩
  case maps => exact fun s o => ⟨rfl, rfl, s.sfrMapped_iff o, s.sfrGuarded_iff o⟩
  case places =>
    intro s a n inRam inSfr inExt
    refine ⟨State.place_of_inRam, State.place_of_inSfr, State.place_of_rom, fun hram hsfr hrom hext => ?ext,
      fun hram hsfr hrom hext => ?unmapped⟩
    case ext => exact (State.place_outside hram hsfr hrom).trans (if_pos ((any_range_iff _ _).mpr hext))
    case unmapped => exact (State.place_outside hram hsfr hrom).trans (if_neg (mt (any_range_iff _ _).mp hext))
  case accesses =>
    intro s a v
    refine ⟨fun n hplace => run_writeByte_of_place v hplace rfl, fun o hplace hguarded => ?guarded,
      fun o hplace hfree hmapped => ?write, fun o hplace hmapped => readByte_of_place hplace hmapped,
      fun o hplace hmapped => ⟨readByte_deadlock hplace hmapped, fun hfree => ?noRegister⟩,
      fun hplace => ⟨readByte_deadlock hplace rfl, run_writeByte_deadlock v hplace rfl⟩⟩
    case guarded =>
      rw [run_writeByte_of_place v hplace (by rw [State.writableAt, hguarded, Bool.true_or]), State.storeAt,
        if_pos hguarded]
    case write =>
      rw [run_writeByte_of_place v hplace (by rw [State.writableAt, hmapped, Bool.or_true]), State.storeAt,
        if_neg (Bool.eq_false_iff.mp hfree)]
      rfl
    case noRegister =>
      exact run_writeByte_deadlock v hplace (by rw [State.writableAt, hfree, hmapped, Bool.or_self])
  case spans =>
    intro s a o w l hplace offs one free
    have span {n : Nat} (h : one n) : s.sfrSpan a n = some o := State.sfrSpan_of_mapped hplace h.1 h.2
    have spanW {n : Nat} (h : free n) : s.sfrSpanW a n = some o := State.sfrSpanW_of_free (span h.1) h.2
    exact ⟨fun h => State.look16_of_sfr (span h), fun h => State.look24_of_sfr (span h),
      fun h => State.store16_of_sfr w (spanW h), fun h => State.store24_of_sfr l (spanW h)⟩

end Sys2Proof.Machine
end

section
/-! Operand addresses and the pointers that auto-increment and auto-decrement move (O16, O17; 20_memory R116 to R126,
48_bit R560). -/

namespace Sys2Proof.Machine

variable (s : State)

/-! ## Effective addresses -/

/-- The address bytes of the internal data area fit in 24 bits, wherever LOCBASE puts it. -/
theorem State.toNat_ofNat_locBase_add {k : Nat} (hk : k < 0x20000) :
    (BitVec.ofNat 24 (s.locBase + k)).toNat = s.locBase + k := by
  have hbase := s.locBase_cases
  rw [BitVec.toNat_ofNat, Nat.mod_eq_of_lt (by omega)]

theorem State.toNat_eaSaddr_s1 (b : Byte) : (s.eaSaddr (.s1 b)).toNat = s.locBase + 0xFE00 + b.toNat := by
  have hb := b.isLt
  rw [State.eaSaddr, Nat.add_assoc, s.toNat_ofNat_locBase_add (by omega)]

/-- The second short direct area: offsets from 20H on below the first, the others in the SFR area (R116). -/
theorem State.toNat_eaSaddr_s2 (b : Byte) :
    (s.eaSaddr (.s2 b)).toNat = s.locBase + (if b.toNat < 0x20 then 0xFF00 else 0xFD00) + b.toNat := by
  have hb := b.isLt
  rw [State.eaSaddr, Nat.add_assoc, s.toNat_ofNat_locBase_add (by split <;> omega)]

theorem State.toNat_eaSfr (b : Byte) : (s.eaSfr b).toNat = s.locBase + 0xFF00 + b.toNat := by
  have hb := b.isLt
  rw [State.eaSfr, Nat.add_assoc, s.toNat_ofNat_locBase_add (by omega)]

/-- A sum with a value extended with zeros is modulo 2^24 (R122 to R124). -/
theorem toNat_add_extended {w : Nat} (hw : w ≤ 24) (l : Long) (x : BitVec w) :
    (l + x.setWidth 24).toNat = (l.toNat + x.toNat) % 2 ^ 24 := by
  rw [BitVec.toNat_add, BitVec.toNat_setWidth_of_le hw]

/-! ## The indirect forms read their pointer from plain memory without effect (R119, R120) -/

variable {s}

theorem State.lookIndP_of_peek {x : Saddr} {w : Word} (h : s.peek16 (s.eaSaddr x) = some w) :
    s.lookIndP x = (w.setWidth 24, s) := by
  rw [State.lookIndP, (State.look16_of_peek h).1]

theorem State.lookIndG_of_peek {x : Saddr} {l : Long} (h : s.peek24 (s.eaSaddr x) = some l) :
    s.lookIndG x = (l, s) := (State.look24_of_peek h).1

theorem loc8_indP {x : Saddr} {w : Word} (h : s.peek16 (s.eaSaddr x) = some w) :
    loc8 (.indP x) s = .ok (.mem (w.setWidth 24), s) := by
  rw [loc8_of (o := .indP x) (State.look16_of_peek h).2, State.locate8, State.lookIndP_of_peek h]

theorem loc16_indP {x : Saddr} {w : Word} (h : s.peek16 (s.eaSaddr x) = some w) :
    loc16 (.indP x) s = .ok (.mem (w.setWidth 24), s) := by
  rw [loc16_of (o := .indP x) (State.look16_of_peek h).2, State.locate16, State.lookIndP_of_peek h]

theorem loc8_indG {x : Saddr} {l : Long} (h : s.peek24 (s.eaSaddr x) = some l) :
    loc8 (.indG x) s = .ok (.mem l, s) := by
  rw [loc8_of (o := .indG x) (State.look24_of_peek h).2, State.locate8, State.lookIndG_of_peek h]

theorem loc16_indG {x : Saddr} {l : Long} (h : s.peek24 (s.eaSaddr x) = some l) :
    loc16 (.indG x) s = .ok (.mem l, s) := by
  rw [loc16_of (o := .indG x) (State.look24_of_peek h).2, State.locate16, State.lookIndG_of_peek h]

theorem loc24_indG {x : Saddr} {l : Long} (h : s.peek24 (s.eaSaddr x) = some l) :
    loc24 (.indG x) s = .ok (.mem l, s) := by
  rw [loc24_of (o := .indG x) (State.look24_of_peek h).2, State.locate24, State.lookIndG_of_peek h]

/-! ## O16 -/

theorem loc16_sfr {b : Byte} (hb : b.toNat < 0xFD) : loc16 (.sfr b) s = .ok (.mem (s.eaSfr b), s) := by
  rw [loc16_of rfl, State.locate16, if_neg (Nat.not_le_of_lt hb)]

theorem State.regKey_regX (s : State) : regKey s.psw.rbs s.regX = s.rssKey := by
  unfold State.regX State.rssKey; split <;> rfl

/-- Settles O16: addresses by whole-number arithmetic, places by the equation of each operand kind. -/
theorem effectiveAddresses : Obligations.EffectiveAddresses := by
  refine ⟨?addresses, ?indirect, ?direct, ?sfr, ?mem3, ?bits⟩
  case addresses =>
    intro s b l
    refine ⟨s.toNat_eaSaddr_s1 b, fun hb => ?below, fun hb => ?above, s.toNat_eaSfr b, ?mem⟩
    case below => rw [s.toNat_eaSaddr_s2, if_neg (Nat.not_lt_of_le hb)]
    case above => rw [s.toNat_eaSaddr_s2, if_pos hb]
    case mem =>
      intro a bReg c de hl tde whl vvp uup
      have pointer (g : RG) : (s.rg g).toNat = (s.rg g).toNat % 2 ^ 24 := (Nat.mod_eq_of_lt (s.rg g).isLt).symm
      have plusByte (l : Long) (x : Byte) := toNat_add_extended (by decide) l x
      have plusWord (l : Long) (x : Word) := toNat_add_extended (by decide) l x
      simp only [List.forall_mem_cons, List.not_mem_nil, false_imp_iff, implies_true, and_true]
      exact ⟨pointer .tde, pointer .whl, pointer .tde, pointer .whl, pointer .tde, pointer .whl, pointer .vvp,
        pointer .uup,
        plusByte _ b, plusByte _ b, plusByte _ b, plusByte _ b, plusByte _ b,
        plusWord l _, plusByte l _, plusWord l _, plusByte l _,
        plusByte _ _, plusByte _ _, plusByte _ _, plusByte _ _, plusWord _ _, plusWord _ _, plusByte _ _, plusByte _ _⟩
  case indirect =>
    exact fun s x w l => ⟨fun h => ⟨loc8_indP h, loc16_indP h⟩, fun h => ⟨loc8_indG h, loc16_indG h, loc24_indG h⟩⟩
  case direct =>
    exact fun s m x w l => ⟨⟨loc8_of rfl, loc16_of rfl, loc24_of rfl⟩, ⟨loc8_of rfl, loc16_of rfl, loc24_of rfl⟩,
      ⟨loc8_of rfl, loc16_of rfl⟩, ⟨loc8_of rfl, loc16_of rfl, loc24_of rfl⟩⟩
  case sfr => exact fun s b => ⟨loc8_of rfl, loc16_sfr⟩
  case mem3 =>
    intro s
    have extended (n : RP) : ((s.rp n).setWidth 24).toNat = (s.rp n).toNat := BitVec.toNat_setWidth_of_le (by decide)
    simp only [List.forall_mem_cons, List.not_mem_nil, false_imp_iff, implies_true, and_true]
    exact ⟨extended .rp0, extended .rp1, extended .rp2, extended .rp3, rfl, rfl, rfl, rfl⟩
  case bits =>
    intro s x b w l first
    exact ⟨rfl, rfl, congrArg Loc8.ram s.regKey_regX, congrArg Loc8.ram s.regKey_regA, rfl, rfl, rfl, rfl, rfl, rfl⟩

/-! ## O17 -/

theorem State.bump_psw (s : State) (m : Mem) (n : Nat) : (s.bump m n).psw = s.psw := by
  unfold State.bump; split <;> rfl

theorem State.bump_io (s : State) (m : Mem) (n : Nat) : (s.bump m n).io = s.io := by
  unfold State.bump; split <;> rfl

/-- A 24-bit register takes up bytes. -/
theorem State.footRg_ne_nothing (s : State) (g : RG) : s.footRg g ≠ Footprint.nothing := by
  simp [State.footRg, Footprint.nothing]

/-- The forms that write no pointer are those that move none. -/
theorem State.bump_of_footMem_nothing {s : State} {m : Mem} (n : Nat) (h : s.footMem m = Footprint.nothing) :
    s.bump m n = s := by
  cases m with
  | rind r =>
    cases r with
    | tdeInc | whlInc | tdeDec | whlDec => exact absurd h (s.footRg_ne_nothing _)
    | _ => rfl
  | _ => rfl

theorem State.after8_of_not_mem {s : State} {o : Op8} (h : ∀ m, o ≠ .mem m) : s.after8 o = s := by
  cases o with
  | mem m => exact absurd rfl (h m)
  | _ => rfl

theorem State.after16_of_not_mem {s : State} {o : Op16} (h : ∀ m, o ≠ .mem m) : s.after16 o = s := by
  cases o with
  | mem m => exact absurd rfl (h m)
  | _ => rfl

theorem State.after24_of_not_mem {s : State} {o : Op24} (h : ∀ m, o ≠ .mem m) : s.after24 o = s := by
  cases o with
  | mem m => exact absurd rfl (h m)
  | _ => rfl

/-- Settles O17: the four moving forms write their register, which reads back; the others are the identity. -/
theorem pointerUpdate : Obligations.PointerUpdate := by
  refine ⟨fun s m => ⟨rfl, rfl, rfl⟩,
    fun s o p q => ⟨State.after8_of_not_mem, State.after16_of_not_mem, State.after24_of_not_mem⟩, ?moves⟩
  case moves =>
    intro s n hinv
    have readBack (g : RG) (l : Long) : (s.setRg g l).rg g = l := State.rg_setRg g l hinv.ramForm
    exact ⟨readBack .tde _, readBack .whl _, readBack .tde _, readBack .whl _,
      fun m => ⟨(s.bump_dataOf m n).sameControl, s.bump_psw m n, s.bump_io m n, s.keeps_bump m n⟩,
      fun m => State.bump_of_footMem_nothing n⟩

end Sys2Proof.Machine
end

section
/-! MOV (O19): the source is read, the destination written, the pointers moved; what each of the three leaves
unchanged (40_mov R250, R262, R263). -/

namespace Sys2Proof.Machine

/-! ## The PSW after a store, and the pointers after an access -/

/-- The PSW after a store to the place: only its two bytes are parts of it (10_state R42). -/
def Loc8.storedPsw (l : Loc8) (v : Byte) (p : Psw) : Psw :=
  match l with
  | .pswl => p.setLow v
  | .pswh => p.setHigh v
  | _ => p

theorem Loc8.store_psw (l : Loc8) (v : Byte) (s : State) : (l.store v s).psw = l.storedPsw v s.psw := by
  cases l with
  | mem a =>
    obtain ⟨r, m, i, h⟩ := s.store_parts a v
    rw [Loc8.store, h]
    rfl
  | _ => rfl

theorem State.after8_psw (s : State) (o : Op8) : (s.after8 o).psw = s.psw := by
  cases o with
  | mem m => exact s.bump_psw m 1
  | _ => rfl

theorem State.keeps_after8 (s : State) (o : Op8) : s.keeps (s.after8 o) (s.footPtr8 o) := by
  cases o with
  | mem m => exact s.keeps_bump m 1
  | _ => exact .refl s _

theorem State.footRg_congr {s t : State} (h : s.SameMap t) (hbank : t.psw.rbs = s.psw.rbs) (g : RG) :
    t.footRg g = s.footRg g := by
  simp only [State.footRg, State.footRp, State.footRpOf, State.ramAddr_congr h, hbank]

theorem State.footMem_congr {s t : State} (h : s.SameMap t) (hbank : t.psw.rbs = s.psw.rbs) (m : Mem) :
    t.footMem m = s.footMem m := by
  unfold State.footMem
  split
  iterate 4 exact State.footRg_congr h hbank _
  rfl

/-- The pointers of a state with the same map; an operand that moves one needs the same bank too. -/
theorem State.footPtr8_congr {s t : State} (h : s.SameMap t) {o : Op8}
    (hbank : ∀ m, o = .mem m → t.psw.rbs = s.psw.rbs) : t.footPtr8 o = s.footPtr8 o := by
  cases o with
  | mem m => exact State.footMem_congr h (hbank m rfl) m
  | _ => rfl

theorem State.footLoc8_congr {s t : State} (h : s.SameMap t) (l : Loc8) : t.footLoc8 l = s.footLoc8 l := by
  cases l with
  | ram k => rw [State.footLoc8, State.footLoc8, State.ramAddr_congr h]
  | _ => rfl

theorem State.locate8_inArea (s : State) (o : Op8) : (s.locate8 o).1.inArea := by
  have hregs := s.locate8_inRegs o
  cases hl : (s.locate8 o).1 with
  | ram k =>
    rw [hl] at hregs
    exact Nat.lt_trans hregs.2 (by decide)
  | _ => trivial

/-! ## The source read, the destination written -/

/-- The source's value, and the state after both operands are located and the source is read. -/
def State.source8 (st : State) (d s : Op8) : Byte × State :=
  ((st.locate8 d).2.locate8 s).1.look ((st.locate8 d).2.locate8 s).2

/-- The source copied to the destination, before the pointers move. -/
def State.stored8 (st : State) (d s : Op8) : State := (st.locate8 d).1.store (st.source8 d s).1 (st.source8 d s).2

/-- The source copied to the destination and the pointers moved. -/
def State.copied8 (st : State) (d s : Op8) : State := ((st.stored8 d s).after8 d).after8 s

section Copy

variable (st : State) (d s : Op8)

theorem State.source8_parts : ∃ i n, (st.source8 d s).2 = { st with io := i, draws := n } := by
  obtain ⟨i, hd⟩ := st.locate8_io d
  obtain ⟨j, hs⟩ := (st.locate8 d).2.locate8_io s
  obtain ⟨k, n, hv⟩ := ((st.locate8 d).2.locate8 s).1.look_parts ((st.locate8 d).2.locate8 s).2
  exact ⟨k, n, by rw [State.source8, hv, hs, hd]⟩

theorem State.source8_psw : (st.source8 d s).2.psw = st.psw := by
  obtain ⟨i, n, h⟩ := st.source8_parts d s
  rw [h]

theorem State.source8_dataOf : st.DataOf (st.source8 d s).2 :=
  ((st.locate8_dataOf d).trans (State.locate8_dataOf _ s)).trans (Loc8.look_dataOf _ _)

theorem State.keeps_source8 : st.keeps (st.source8 d s).2 Footprint.nothing := by
  obtain ⟨i, n, h⟩ := st.source8_parts d s
  rw [h]
  exact State.keeps_of_same ⟨rfl, rfl⟩ rfl rfl rfl _

theorem State.stored8_dataOf : st.DataOf (st.stored8 d s) :=
  (st.source8_dataOf d s).trans (Loc8.store_dataOf _ _ _)

theorem State.stored8_psw : (st.stored8 d s).psw = (st.locate8 d).1.storedPsw (st.source8 d s).1 st.psw := by
  rw [State.stored8, Loc8.store_psw, State.source8_psw]

theorem State.keeps_stored8 : st.keeps (st.stored8 d s) (st.footLoc8 (st.locate8 d).1) := by
  rw [← State.footLoc8_congr (st.source8_dataOf d s).sameMap]
  exact (st.keeps_source8 d s).trans (State.keeps_store8 _ _ _ (st.locate8_inArea d))

theorem State.copied8_dataOf : st.DataOf (st.copied8 d s) :=
  (st.stored8_dataOf d s).trans ((State.after8_dataOf _ d).trans (State.after8_dataOf _ s))

theorem State.copied8_psw : (st.copied8 d s).psw = (st.locate8 d).1.storedPsw (st.source8 d s).1 st.psw := by
  rw [State.copied8, State.after8_psw, State.after8_psw, State.stored8_psw]

theorem State.copied8_hold : (st.copied8 d s).hold = st.hold := by
  obtain ⟨_, _, _, _, _, _, h⟩ := st.copied8_dataOf d s
  rw [h]

variable {st d s}

/-- MOV moves a pointer only in a form that copies to or from A, which leaves the PSW and so the bank as they are. -/
theorem movForm_storedPsw_of_mem {m : Mem} (h : movForm d s = true) (hmem : d = .mem m ∨ s = .mem m) (v : Byte)
    (p : Psw) : (st.locate8 d).1.storedPsw v p = p := by
  rcases hmem with rfl | rfl
  · rfl
  · cases d with
    | a => rfl
    | _ => exact absurd h Bool.false_ne_true

/-- The copy writes the destination, then the pointers, which are those of the bank selected before it. -/
theorem State.keeps_copied8 (h : movForm d s = true) : st.keeps (st.copied8 d s) (st.foot8 d s) := by
  have bank {m : Mem} (hmem : d = .mem m ∨ s = .mem m) : (st.stored8 d s).psw.rbs = st.psw.rbs := by
    rw [State.stored8_psw, movForm_storedPsw_of_mem h hmem]
  have pointerD : st.footPtr8 d = (st.stored8 d s).footPtr8 d :=
    (State.footPtr8_congr (st.stored8_dataOf d s).sameMap fun _ hm => bank (.inl hm)).symm
  have pointerS : st.footPtr8 s = ((st.stored8 d s).after8 d).footPtr8 s :=
    (State.footPtr8_congr ((st.stored8_dataOf d s).trans (State.after8_dataOf _ d)).sameMap fun _ hm => by
      rw [State.after8_psw, bank (.inr hm)]).symm
  rw [State.foot8, pointerD, pointerS]
  exact (st.keeps_stored8 d s).trans ((State.keeps_after8 _ d).trans (State.keeps_after8 _ s))

/-- Where both operands can be used MOV completes: the copy, and HOLD where the destination is PSWL. -/
theorem execMov_of (h : movForm d s = true) (hd : st.writes8 d = true) (hs : st.reads8 s = true) :
    execMov d s st = .next { st.copied8 d s with hold := st.hold || decide (d = .pswl) } := by
  obtain ⟨pointerD, writable⟩ := Bool.and_eq_true_iff.mp hd
  obtain ⟨pointerS, readable⟩ := Bool.and_eq_true_iff.mp hs
  have mapD := (st.locate8_dataOf d).sameMap
  have mapS := ((st.locate8_dataOf d).trans (State.locate8_dataOf _ s)).sameMap
  have locateD : loc8 d st = .ok (st.locate8 d) := loc8_of pointerD
  have locateS : loc8 s (st.locate8 d).2 = .ok ((st.locate8 d).2.locate8 s) :=
    loc8_of ((State.pointerOk8_congr mapD s).trans pointerS)
  have readS : read8 ((st.locate8 d).2.locate8 s).1 ((st.locate8 d).2.locate8 s).2 = .ok (st.source8 d s) :=
    read8_of <| by rwa [Loc8.readable_congr mapS, State.second8 st d s (movForm_direct h)]
  have writeD : write8 (st.locate8 d).1 (st.source8 d s).1 (st.source8 d s).2 = .ok ((), st.stored8 d s) :=
    write8_of _ ((Loc8.writable_congr (st.source8_dataOf d s).sameMap _).trans writable)
  rw [execMov, run_bind_of _ locateD, run_bind_of _ locateS, run_bind_of _ readS, run_bind_of _ writeD,
    run_bind_of _ (modify_apply _ _), ← st.copied8_hold d s]
  by_cases hpswl : d = .pswl
  · rw [if_pos hpswl, decide_eq_true hpswl, Bool.or_true]
    rfl
  · rw [if_neg hpswl, decide_eq_false hpswl, Bool.or_false]
    rfl

end Copy

/-- Settles O19: the copy's equation, and its PSW, control state and frame by the parts of the copy. -/
theorem movCopies : Obligations.MovCopies := by
  intro d s st h hd hs
  have control : st.sameControl { st.copied8 d s with hold := st.hold } := by
    rw [← st.copied8_hold d s]
    exact (st.copied8_dataOf d s).sameControl
  exact ⟨_, execMov_of h hd hs, ⟨rfl, st.copied8_psw d s⟩, control, State.keeps_copied8 h⟩

end Sys2Proof.Machine
end

section
/-! MOVW and MOVG (O20): the source is read, the destination written, the pointers moved, with what each leaves
unchanged, at 16 and at 24 bits (41_movw_movg R300, R310; 49_stack R620 to R622). -/

namespace Sys2Proof.Machine

/-- A copy whose four accesses answer completes: what is left is to move the pointers. -/
theorem run_copy_of {L V : Type} {locD locS : Act L} {read : L → Act V} {write : L → V → Act Unit} {st t : State}
    {p q : L × State} {v : V × State} (after : State → State) (locateD : locD st = .ok p) (locateS : locS p.2 = .ok q)
    (readS : read q.1 q.2 = .ok v) (writeD : write p.1 v.1 v.2 = .ok ((), t)) :
    run (do
      let ld ← locD
      let ls ← locS
      let v ← read ls
      write ld v
      modify after) st = .next (after t) := by
  rw [run_bind_of _ locateD, run_bind_of _ locateS, run_bind_of _ readS, run_bind_of _ writeD, run_modify]

theorem Loc8.InRegs.inArea {l : Loc8} (h : l.InRegs) : l.inArea := by
  cases l with
  | ram k => exact Nat.lt_trans h.2 (by decide)
  | _ => trivial

theorem State.SameMap.trans {s t u : State} (h : s.SameMap t) (g : t.SameMap u) : s.SameMap u :=
  ⟨g.1.trans h.1, g.2.trans h.2⟩

/-! ## 16 bits: the places, the pointers -/

/-- Only a word moved to sfr offset FDH, FEH or FFH reaches the PSW (D30). -/
theorem Loc16.store_psw {l : Loc16} (h : ∀ o, l ≠ .pswSfr o) (w : Word) (s : State) : (l.store w s).psw = s.psw := by
  cases l with
  | mem a =>
    obtain ⟨r, m, i, hstore⟩ := s.store16_parts a w
    rw [Loc16.store, hstore]
  | pswSfr o => exact absurd rfl (h o)
  | _ => rfl

theorem State.footLoc16_congr {s t : State} (h : s.SameMap t) (l : Loc16) : t.footLoc16 l = s.footLoc16 l := by
  cases l with
  | ram k => rw [State.footLoc16, State.footLoc16, State.ramAddr_congr h, State.ramAddr_congr h]
  | pswSfr o =>
    rw [State.footLoc16, State.footLoc16, State.sfrLoc_congr h, State.sfrNext_congr h, State.footLoc8_congr h,
      State.footLoc8_congr h]
  | _ => rfl

theorem State.keeps_storeLoc16 (s : State) {l : Loc16} (w : Word) (h : l.InRegs) :
    s.keeps (l.store w s) (s.footLoc16 l) := by
  cases l with
  | ram k => exact s.keeps_setRam16 w (Nat.lt_trans h.2.2 (by decide))
  | imm v => exact .refl s _
  | mem a => exact s.keeps_store16 a w
  | pswSfr o =>
    have low := State.keeps_store8 (s.sfrLoc o) (w.extractLsb' 0 8) s (s.sfrLoc_inRegs o).inArea
    have high := State.keeps_store8 (s.sfrNext o) (w.extractLsb' 8 8) ((s.sfrLoc o).store (w.extractLsb' 0 8) s)
      (s.sfrNext_inRegs o).inArea
    rw [State.footLoc8_congr (Loc8.store_dataOf _ _ s).sameMap] at high
    exact low.trans high

theorem State.after16_psw (s : State) (o : Op16) : (s.after16 o).psw = s.psw := by
  cases o with
  | mem m => exact s.bump_psw m 2
  | _ => rfl

theorem State.keeps_after16 (s : State) (o : Op16) : s.keeps (s.after16 o) (s.footPtr16 o) := by
  cases o with
  | mem m => exact s.keeps_bump m 2
  | _ => exact .refl s _

/-- The pointers of a state with the same map; an operand that moves one needs the same bank too. -/
theorem State.footPtr16_congr {s t : State} (h : s.SameMap t) {o : Op16}
    (hbank : ∀ m, o = .mem m → t.psw.rbs = s.psw.rbs) : t.footPtr16 o = s.footPtr16 o := by
  cases o with
  | mem m => exact State.footMem_congr h (hbank m rfl) m
  | _ => rfl

/-! ## MOVW -/

/-- The source's value, and the state after both operands are located and the source is read. -/
def State.source16 (st : State) (d s : Op16) : Word × State :=
  ((st.locate16 d).2.locate16 s).1.look ((st.locate16 d).2.locate16 s).2

/-- The source copied to the destination, before the pointers move. -/
def State.stored16 (st : State) (d s : Op16) : State :=
  (st.locate16 d).1.store (st.source16 d s).1 (st.source16 d s).2

/-- The source copied to the destination and the pointers moved. -/
def State.copied16 (st : State) (d s : Op16) : State := ((st.stored16 d s).after16 d).after16 s

section Copy16

variable (st : State) (d s : Op16)

theorem State.source16_parts : ∃ i n, (st.source16 d s).2 = { st with io := i, draws := n } := by
  obtain ⟨i, hd⟩ := st.locate16_io d
  obtain ⟨j, hs⟩ := (st.locate16 d).2.locate16_io s
  obtain ⟨k, n, hv⟩ := ((st.locate16 d).2.locate16 s).1.look_parts ((st.locate16 d).2.locate16 s).2
  exact ⟨k, n, by rw [State.source16, hv, hs, hd]⟩

theorem State.source16_dataOf : st.DataOf (st.source16 d s).2 := by
  obtain ⟨i, n, h⟩ := st.source16_parts d s
  exact ⟨_, _, _, _, i, n, h⟩

theorem State.keeps_source16 : st.keeps (st.source16 d s).2 Footprint.nothing := by
  obtain ⟨i, n, h⟩ := st.source16_parts d s
  rw [h]
  exact State.keeps_of_same ⟨rfl, rfl⟩ rfl rfl rfl _

theorem State.stored16_dataOf : st.DataOf (st.stored16 d s) :=
  (st.source16_dataOf d s).trans (Loc16.store_dataOf _ _ _)

theorem State.keeps_stored16 : st.keeps (st.stored16 d s) (st.footLoc16 (st.locate16 d).1) := by
  rw [← State.footLoc16_congr (st.source16_dataOf d s).sameMap]
  exact (st.keeps_source16 d s).trans (State.keeps_storeLoc16 _ _ (st.locate16_inRegs d))

theorem State.copied16_dataOf : st.DataOf (st.copied16 d s) :=
  (st.stored16_dataOf d s).trans ((State.after16_dataOf _ d).trans (State.after16_dataOf _ s))

variable {st d s}

theorem State.stored16_psw (h : ∀ o, (st.locate16 d).1 ≠ .pswSfr o) : (st.stored16 d s).psw = st.psw := by
  obtain ⟨i, n, hsource⟩ := st.source16_parts d s
  rw [State.stored16, Loc16.store_psw h, hsource]

theorem State.copied16_psw (h : ∀ o, (st.locate16 d).1 ≠ .pswSfr o) : (st.copied16 d s).psw = st.psw := by
  rw [State.copied16, State.after16_psw, State.after16_psw, State.stored16_psw h]

/-- MOVW moves a pointer only in a form that copies to or from AX, which does not reach the PSW. -/
theorem movwForm_not_pswSfr_of_mem {m : Mem} (h : movwForm d s = true) (hmem : d = .mem m ∨ s = .mem m) (o : Byte) :
    (st.locate16 d).1 ≠ .pswSfr o := by
  rcases hmem with rfl | rfl
  · exact Loc16.noConfusion
  · cases d with
    | ax => exact Loc16.noConfusion
    | _ => exact absurd h Bool.false_ne_true

/-- The copy writes the destination, then the pointers, which are those of the bank selected before it. -/
theorem State.keeps_copied16 (h : movwForm d s = true) : st.keeps (st.copied16 d s) (st.foot16 d s) := by
  have bank {m : Mem} (hmem : d = .mem m ∨ s = .mem m) : (st.stored16 d s).psw.rbs = st.psw.rbs := by
    rw [State.stored16_psw (movwForm_not_pswSfr_of_mem h hmem)]
  have mapStored := (st.stored16_dataOf d s).sameMap
  have pointerD : (st.stored16 d s).footPtr16 d = st.footPtr16 d :=
    State.footPtr16_congr mapStored fun _ hm => bank (.inl hm)
  have pointerS : ((st.stored16 d s).after16 d).footPtr16 s = st.footPtr16 s :=
    State.footPtr16_congr (mapStored.trans (State.after16_dataOf _ d).sameMap) fun _ hm => by
      rw [State.after16_psw, bank (.inr hm)]
  rw [State.foot16, ← pointerD, ← pointerS]
  exact (st.keeps_stored16 d s).trans ((State.keeps_after16 _ d).trans (State.keeps_after16 _ s))

/-- Where both operands can be used MOVW completes with the copy. -/
theorem execMovw_of (h : movwForm d s = true) (hd : st.writes16 d = true) (hs : st.reads16 s = true) :
    execMovw d s st = .next (st.copied16 d s) := by
  obtain ⟨pointerD, writable⟩ := Bool.and_eq_true_iff.mp hd
  obtain ⟨pointerS, readable⟩ := Bool.and_eq_true_iff.mp hs
  have mapD := (st.locate16_dataOf d).sameMap
  have mapS := mapD.trans (State.locate16_dataOf _ s).sameMap
  have readableS : ((st.locate16 d).2.locate16 s).1.readable ((st.locate16 d).2.locate16 s).2 = true := by
    rwa [Loc16.readable_congr mapS, State.second16 st d s (movwForm_direct h)]
  exact run_copy_of (fun t => (t.after16 d).after16 s) (loc16_of pointerD)
    (loc16_of ((State.pointerOk16_congr mapD s).trans pointerS)) (read16_of readableS)
    (write16_of _ ((Loc16.writable_congr (st.source16_dataOf d s).sameMap _).trans writable))

end Copy16

/-! ## 24 bits: the places, the pointers -/

/-- SP after a store to the place: only the bits the product has (10_state R47). -/
def Loc24.storedSp (l : Loc24) (v : Long) (s : State) : Long := if l = .sp then v &&& s.cfg.spMask else s.sp

theorem Loc24.store_parts (l : Loc24) (v : Long) (s : State) :
    ∃ r m x i, l.store v s = { s with sp := l.storedSp v s, ram := r, mem := m, vutw := x, io := i } := by
  cases l with
  | mem a =>
    obtain ⟨r, m, i, h⟩ := s.store24_parts a v
    exact ⟨r, m, s.vutw, i, h⟩
  | _ => exact ⟨_, _, _, _, rfl⟩

theorem State.locate24_eq_sp_iff (s : State) (o : Op24) : (s.locate24 o).1 = .sp ↔ o = .sp := by
  cases o <;> simp [State.locate24]

theorem State.keeps_storeLoc24 (s : State) {l : Loc24} (v : Long) (h : l.InRegs) :
    s.keeps (l.store v s) (s.footLoc24 l) := by
  cases l with
  | reg k i =>
    constructor
    · exact (s.keeps_setRam16 (v.extractLsb' 0 16) (Nat.lt_trans h.2.2 (by decide))).1
    · intro j hj
      have hne : i.val ≠ j.val := fun heq => hj (by simp [State.footLoc24, Fin.ext heq.symm])
      exact Vector.getElem_set_ne i.isLt j.isLt hne
  | imm w => exact .refl s _
  | mem a => exact s.keeps_store24 a v
  | sp => exact State.keeps_of_same ⟨rfl, rfl⟩ rfl rfl rfl _

theorem State.bump_parts (s : State) (m : Mem) (n : Nat) : ∃ r x, s.bump m n = { s with ram := r, vutw := x } := by
  unfold State.bump
  split <;> exact ⟨_, _, rfl⟩

theorem State.after24_parts (s : State) (o : Op24) : ∃ r x, s.after24 o = { s with ram := r, vutw := x } := by
  cases o with
  | mem m => exact s.bump_parts m 3
  | _ => exact ⟨_, _, rfl⟩

theorem State.keeps_after24 (s : State) (o : Op24) : s.keeps (s.after24 o) (s.footPtr24 o) := by
  cases o with
  | mem m => exact s.keeps_bump m 3
  | _ => exact .refl s _

theorem State.footLoc24_congr {s t : State} (h : s.SameMap t) (l : Loc24) : t.footLoc24 l = s.footLoc24 l := by
  cases l with
  | reg k i => rw [State.footLoc24, State.footLoc24, State.ramAddr_congr h, State.ramAddr_congr h]
  | _ => rfl

theorem State.footPtr24_congr {s t : State} (h : s.SameMap t) (hbank : t.psw.rbs = s.psw.rbs) (o : Op24) :
    t.footPtr24 o = s.footPtr24 o := by
  cases o with
  | mem m => exact State.footMem_congr h hbank m
  | _ => rfl

/-! ## MOVG -/

/-- The source's value, and the state after both operands are located and the source is read. -/
def State.source24 (st : State) (d s : Op24) : Long × State :=
  ((st.locate24 d).2.locate24 s).1.look ((st.locate24 d).2.locate24 s).2

/-- The source copied to the destination, before the pointers move. -/
def State.stored24 (st : State) (d s : Op24) : State :=
  (st.locate24 d).1.store (st.source24 d s).1 (st.source24 d s).2

/-- The source copied to the destination and the pointers moved. -/
def State.copied24 (st : State) (d s : Op24) : State := ((st.stored24 d s).after24 d).after24 s

section Copy24

variable (st : State) (d s : Op24)

theorem State.source24_io : ∃ i, (st.source24 d s).2 = { st with io := i } := by
  obtain ⟨i, hd⟩ := st.locate24_io d
  obtain ⟨j, hs⟩ := (st.locate24 d).2.locate24_io s
  obtain ⟨k, hv⟩ := ((st.locate24 d).2.locate24 s).1.look_io ((st.locate24 d).2.locate24 s).2
  exact ⟨k, by rw [State.source24, hv, hs, hd]⟩

theorem State.source24_sameMap : st.SameMap (st.source24 d s).2 := by
  obtain ⟨i, h⟩ := st.source24_io d s
  rw [h]
  exact ⟨rfl, rfl⟩

theorem State.keeps_source24 : st.keeps (st.source24 d s).2 Footprint.nothing := by
  obtain ⟨i, h⟩ := st.source24_io d s
  rw [h]
  exact State.keeps_of_same ⟨rfl, rfl⟩ rfl rfl rfl _

theorem State.stored24_parts : ∃ r m x i, st.stored24 d s = { st with
    sp := (st.locate24 d).1.storedSp (st.source24 d s).1 st, ram := r, mem := m, vutw := x, io := i } := by
  obtain ⟨i, hsource⟩ := st.source24_io d s
  obtain ⟨r, m, x, j, hstore⟩ := (st.locate24 d).1.store_parts (st.source24 d s).1 (st.source24 d s).2
  exact ⟨r, m, x, j, by rw [State.stored24, hstore, hsource]; rfl⟩

theorem State.keeps_stored24 : st.keeps (st.stored24 d s) (st.footLoc24 (st.locate24 d).1) := by
  rw [← State.footLoc24_congr (st.source24_sameMap d s)]
  exact (st.keeps_source24 d s).trans (State.keeps_storeLoc24 _ _ (st.locate24_inRegs d))

theorem State.copied24_parts : ∃ r m x i, st.copied24 d s = { st with
    sp := (st.locate24 d).1.storedSp (st.source24 d s).1 st, ram := r, mem := m, vutw := x, io := i } := by
  obtain ⟨r, m, x, i, hstored⟩ := st.stored24_parts d s
  obtain ⟨r', x', hd⟩ := (st.stored24 d s).after24_parts d
  obtain ⟨r'', x'', hs⟩ := ((st.stored24 d s).after24 d).after24_parts s
  exact ⟨r'', m, x'', i, by rw [State.copied24, hs, hd, hstored]⟩

theorem State.copied24_psw : (st.copied24 d s).psw = st.psw := by
  obtain ⟨r, m, x, i, h⟩ := st.copied24_parts d s
  rw [h]

theorem State.copied24_sp :
    (st.copied24 d s).sp = if d = .sp then (st.source24 d s).1 &&& st.cfg.spMask else st.sp := by
  obtain ⟨r, m, x, i, h⟩ := st.copied24_parts d s
  rw [h, Loc24.storedSp]
  simp only [st.locate24_eq_sp_iff]

/-- But for SP, which MOVG may write, no control state changes. -/
theorem State.copied24_sameControl : st.sameControl { st.copied24 d s with sp := st.sp } := by
  obtain ⟨r, m, x, i, h⟩ := st.copied24_parts d s
  rw [h]
  rfl

/-- The copy writes the destination, then the pointers. -/
theorem State.keeps_copied24 : st.keeps (st.copied24 d s) (st.foot24 d s) := by
  obtain ⟨r, m, x, i, hstored⟩ := st.stored24_parts d s
  have pointerD : (st.stored24 d s).footPtr24 d = st.footPtr24 d := by
    rw [hstored]
    exact State.footPtr24_congr ⟨rfl, rfl⟩ rfl d
  have pointerS : ((st.stored24 d s).after24 d).footPtr24 s = st.footPtr24 s := by
    obtain ⟨r', x', hafter⟩ := (st.stored24 d s).after24_parts d
    rw [hafter, hstored]
    exact State.footPtr24_congr ⟨rfl, rfl⟩ rfl s
  rw [State.foot24, ← pointerD, ← pointerS]
  exact (st.keeps_stored24 d s).trans ((State.keeps_after24 _ d).trans (State.keeps_after24 _ s))

variable {st d s}

/-- Where both operands can be used MOVG completes with the copy. -/
theorem execMovg_of (h : movgForm d s = true) (hd : st.writes24 d = true) (hs : st.reads24 s = true) :
    execMovg d s st = .next (st.copied24 d s) := by
  obtain ⟨pointerD, writable⟩ := Bool.and_eq_true_iff.mp hd
  obtain ⟨pointerS, readable⟩ := Bool.and_eq_true_iff.mp hs
  have mapD := (st.locate24_dataOf d).sameMap
  have mapS := mapD.trans (State.locate24_dataOf _ s).sameMap
  have readableS : ((st.locate24 d).2.locate24 s).1.readable ((st.locate24 d).2.locate24 s).2 = true := by
    rwa [Loc24.readable_congr mapS, State.second24 st d s (movgForm_direct h)]
  exact run_copy_of (fun t => (t.after24 d).after24 s) (loc24_of pointerD)
    (loc24_of ((State.pointerOk24_congr mapD s).trans pointerS)) (read24_of readableS)
    (write24_of _ ((Loc24.writable_congr (st.source24_sameMap d s) _).trans writable))

end Copy24

/-- Settles O20: the copy's equation at each width, and its PSW, SP, control state and frame by the parts of the
copy. -/
theorem movwMovgCopy : Obligations.MovwMovgCopy := by
  refine ⟨?movw, ?movg⟩
  case movw =>
    exact fun d s st h hd hs => ⟨st.copied16 d s, execMovw_of h hd hs, ⟨rfl, State.copied16_psw⟩,
      (st.copied16_dataOf d s).sameControl, State.keeps_copied16 h⟩
  case movg =>
    exact fun d s st h hd hs => ⟨st.copied24 d s, execMovg_of h hd hs, ⟨rfl, st.copied24_sp d s⟩,
      st.copied24_psw d s, st.copied24_sameControl d s, st.keeps_copied24 d s⟩

end Sys2Proof.Machine
end

section
/-! XCH and XCHW (O21): both operands are read, then both written, in the order of 42_xch_xchw R351 to R355 and R361 to
R364, then the pointer of a memory operand is moved; what each of the three leaves unchanged, at 8 and at 16 bits. -/

namespace Sys2Proof.Machine

/-! ## The two writes of an exchange, at any width -/

section Exchange

variable {L V : Type} {store : L → V → State → State} {st : State} {ld ls : L} {a b : V} {regLast : Bool}

/-- Both operands written: the first operand first, or last where it is a register exchanged with memory (R353 to R355,
R362 to R364). -/
def exchange (store : L → V → State → State) (regLast : Bool) (ld ls : L) (a b : V) (st : State) : State :=
  if regLast then store ld b (store ls a st) else store ls a (store ld b st)

/-- What a write of either operand keeps the exchange keeps. -/
theorem exchange_invariant {P : State → Prop} (writeD : ∀ v t, P t → P (store ld v t))
    (writeS : ∀ v t, P t → P (store ls v t)) (h : P st) : P (exchange store regLast ld ls a b st) := by
  cases regLast with
  | true => exact writeD b _ (writeS a _ h)
  | false => exact writeS a _ (writeD b _ h)

/-- In either order the exchange writes what the two writes write. -/
theorem State.keeps_exchange {f g : Footprint} (data : ∀ l v (t : State), t.DataOf (store l v t))
    (writeD : ∀ v t, st.SameMap t → t.keeps (store ld v t) f)
    (writeS : ∀ v t, st.SameMap t → t.keeps (store ls v t) g) :
    st.keeps (exchange store regLast ld ls a b st) (f.and g) := by
  cases regLast with
  | true =>
    refine ((writeS a st (.refl st)).trans (writeD b _ (data ls a st).sameMap)).mono ?bytes ?exts <;>
      simp only [Footprint.and, List.mem_append, or_comm, imp_self, implies_true]
  | false => exact (writeD b st (.refl st)).trans (writeS a _ (data ld b st).sameMap)

/-- The parts of an exchange's footprint, in the order they are written in, are parts of the statement's footprint. -/
theorem mem_statementOrder {α : Type} {x : α} {dst src ptrD ptrS : List α} (h : x ∈ (dst ++ src) ++ ptrS) :
    x ∈ (dst ++ (ptrD ++ ptrS)) ++ src := by
  rcases List.mem_append.mp h with hwritten | hptrS
  · rcases List.mem_append.mp hwritten with hdst | hsrc
    · exact List.mem_append_left _ (List.mem_append_left _ hdst)
    · exact List.mem_append_right _ hsrc
  · exact List.mem_append_left _ (List.mem_append_right _ (List.mem_append_right _ hptrS))

/-- An exchange's footprint in the order in which the statements write it: destination, pointers, source. -/
theorem State.keeps.of_exchange {s t : State} {dst src ptrD ptrS : Footprint}
    (h : s.keeps t ((dst.and src).and ptrS)) : s.keeps t ((dst.and (ptrD.and ptrS)).and src) :=
  h.mono (fun _ => mem_statementOrder) (fun _ => mem_statementOrder)

/-- Where both operands can be written, before and after the other one, the exchange completes: what is left is to move
the pointer. -/
theorem run_exchange_of {write : L → V → Act Unit} (after : State → State)
    (data : ∀ l v (t : State), t.DataOf (store l v t))
    (writeD : ∀ v t, st.SameMap t → write ld v t = .ok ((), store ld v t))
    (writeS : ∀ v t, st.SameMap t → write ls v t = .ok ((), store ls v t)) :
    run (do
      if regLast then
        write ls a
        write ld b
      else
        write ld b
        write ls a
      modify after) st = .next (after (exchange store regLast ld ls a b st)) := by
  cases regLast with
  | true =>
    exact (run_bind_of _ (writeS a st (.refl st))).trans
      (run_bind_of _ (writeD b _ (data ls a st).sameMap))
  | false =>
    exact (run_bind_of _ (writeD b st (.refl st))).trans
      (run_bind_of _ (writeS a _ (data ld b st).sameMap))

end Exchange

/-! ## XCH -/

/-- Only a register's place is a register. -/
theorem Loc8.isReg_iff (l : Loc8) : l.isReg = true ↔ ∃ k, l = .ram k := by
  cases l <;> simp [Loc8.isReg]

/-- Both operands read and exchanged, before the pointer moves. -/
def State.exchanged8 (st : State) (d s : Op8) : State :=
  let x := st.operands8 d s
  exchange Loc8.store (x.1.ld.isReg && !x.1.ls.isReg) x.1.ld x.1.ls x.1.a x.1.b x.2

section Exchange8

variable (st : State) (d s : Op8)

/-- Reading both operands changes only the record of the host's exchanges and the count of free values. -/
theorem State.operands8_parts : ∃ i n, (st.operands8 d s).2 = { st with io := i, draws := n } := by
  obtain ⟨i, hd⟩ := st.locate8_io d
  obtain ⟨j, hs⟩ := (st.locate8 d).2.locate8_io s
  obtain ⟨k, n, ha⟩ := (st.locate8 d).1.look_parts ((st.locate8 d).2.locate8 s).2
  obtain ⟨k', n', hb⟩ := Loc8.look_parts ((st.locate8 d).2.locate8 s).1
    ((st.locate8 d).1.look ((st.locate8 d).2.locate8 s).2).2
  exact ⟨k', n', by rw [State.operands8, hb, ha, hs, hd]⟩

theorem State.keeps_operands8 : st.keeps (st.operands8 d s).2 Footprint.nothing := by
  obtain ⟨i, n, h⟩ := st.operands8_parts d s
  rw [h]
  exact State.keeps_of_same ⟨rfl, rfl⟩ rfl rfl rfl _

theorem State.exchanged8_dataOf : st.DataOf (st.exchanged8 d s) :=
  exchange_invariant (fun v t h => h.trans (Loc8.store_dataOf _ v t)) (fun v t h => h.trans (Loc8.store_dataOf _ v t))
    (st.operands8_dataOf d s)

/-- A write of a place in a state with the same map keeps what the place's footprint in that map leaves out. -/
theorem State.keeps_store8_of_sameMap {st t : State} {l : Loc8} (hl : l.inArea) (v : Byte) (h : st.SameMap t) :
    t.keeps (l.store v t) (st.footLoc8 l) := by
  rw [← State.footLoc8_congr h]
  exact State.keeps_store8 l v t hl

theorem State.keeps_exchanged8 :
    st.keeps (st.exchanged8 d s) ((st.footLoc8 (st.locate8 d).1).and (st.footLoc8 (st.operands8 d s).1.ls)) := by
  have mapRead := (st.operands8_dataOf d s).sameMap
  exact (st.keeps_operands8 d s).trans <| State.keeps_exchange Loc8.store_dataOf
    (fun v _ h => State.keeps_store8_of_sameMap (st.locate8_inArea d) v (mapRead.trans h))
    (fun v _ h => State.keeps_store8_of_sameMap ((st.locate8 d).2.locate8_inArea s) v (mapRead.trans h))

variable {st d s}

/-- XCH moves a pointer only in the form that exchanges with A. -/
theorem xchForm_mem {m : Mem} (h : xchForm d (.mem m) = true) : d = .a := by
  cases d with
  | a => rfl
  | _ => exact absurd h Bool.false_ne_true

/-- A exchanged with memory leaves the PSW and so the bank as they are. -/
theorem State.exchanged8_psw_of_mem (st : State) (m : Mem) : (st.exchanged8 .a (.mem m)).psw = st.psw := by
  obtain ⟨i, n, h⟩ := st.operands8_parts .a (.mem m)
  refine exchange_invariant (P := fun t => t.psw = st.psw) (fun v t ht => ?writeA) (fun v t ht => ?writeMem)
    (by rw [h])
  case writeA => exact ht
  case writeMem => exact (Loc8.store_psw _ v t).trans ht

/-- The exchange writes both operands, then the pointer, which is that of the bank selected before it. -/
theorem State.keeps_exchanged8_after8 (h : xchForm d s = true) : st.keeps ((st.exchanged8 d s).after8 s)
    ((st.foot8 d s).and (st.footLoc8 (st.operands8 d s).1.ls)) := by
  have pointer : (st.exchanged8 d s).footPtr8 s = st.footPtr8 s :=
    State.footPtr8_congr (st.exchanged8_dataOf d s).sameMap fun m hm => by
      subst hm
      rw [xchForm_mem h, State.exchanged8_psw_of_mem]
  have moved := State.keeps_after8 (st.exchanged8 d s) s
  rw [pointer] at moved
  exact ((st.keeps_exchanged8 d s).trans moved).of_exchange

/-- Where both operands can be used XCH completes with the exchange. -/
theorem execXch_of (h : xchForm d s = true) (readD : st.reads8 d = true) (readS : st.reads8 s = true)
    (writeD : st.writes8 d = true) (writeS : st.writes8 s = true) :
    execXch d s st = .next ((st.exchanged8 d s).after8 s) := by
  have direct := xchForm_direct h
  have mapRead := (st.operands8_dataOf d s).sameMap
  have writableD : (st.operands8 d s).1.ld.writable st = true := (Bool.and_eq_true_iff.mp writeD).2
  have placeS : (st.operands8 d s).1.ls = (st.locate8 s).1 := State.second8 st d s direct
  have writableS : (st.operands8 d s).1.ls.writable st = true := by
    rw [placeS]
    exact (Bool.and_eq_true_iff.mp writeS).2
  rw [execXch, run_bind_of _ (both8_of direct readD readS)]
  exact run_exchange_of (·.after8 s) Loc8.store_dataOf
    (fun v _ hm => write8_of v ((Loc8.writable_congr (mapRead.trans hm) _).trans writableD))
    (fun v _ hm => write8_of v ((Loc8.writable_congr (mapRead.trans hm) _).trans writableS))

end Exchange8

/-! ## XCHW -/

/-- Only a pair's place is a register. -/
theorem Loc16.isReg_iff (l : Loc16) : l.isReg = true ↔ ∃ k, l = .ram k := by
  cases l <;> simp [Loc16.isReg]

/-- Both operands read and exchanged, before the pointer moves. -/
def State.exchanged16 (st : State) (d s : Op16) : State :=
  let x := st.operands16 d s
  exchange Loc16.store (x.1.ld.isReg && !x.1.ls.isReg) x.1.ld x.1.ls x.1.a x.1.b x.2

section Exchange16

variable (st : State) (d s : Op16)

/-- Reading both operands changes only the record of the host's exchanges and the count of free values. -/
theorem State.operands16_parts : ∃ i n, (st.operands16 d s).2 = { st with io := i, draws := n } := by
  obtain ⟨i, hd⟩ := st.locate16_io d
  obtain ⟨j, hs⟩ := (st.locate16 d).2.locate16_io s
  obtain ⟨k, n, ha⟩ := (st.locate16 d).1.look_parts ((st.locate16 d).2.locate16 s).2
  obtain ⟨k', n', hb⟩ := Loc16.look_parts ((st.locate16 d).2.locate16 s).1
    ((st.locate16 d).1.look ((st.locate16 d).2.locate16 s).2).2
  exact ⟨k', n', by rw [State.operands16, hb, ha, hs, hd]⟩

theorem State.keeps_operands16 : st.keeps (st.operands16 d s).2 Footprint.nothing := by
  obtain ⟨i, n, h⟩ := st.operands16_parts d s
  rw [h]
  exact State.keeps_of_same ⟨rfl, rfl⟩ rfl rfl rfl _

theorem State.exchanged16_dataOf : st.DataOf (st.exchanged16 d s) :=
  exchange_invariant (fun v t h => h.trans (Loc16.store_dataOf _ v t))
    (fun v t h => h.trans (Loc16.store_dataOf _ v t)) (st.operands16_dataOf d s)

/-- A write of a place in a state with the same map keeps what the place's footprint in that map leaves out. -/
theorem State.keeps_storeLoc16_of_sameMap {st t : State} {l : Loc16} (hl : l.InRegs) (w : Word) (h : st.SameMap t) :
    t.keeps (l.store w t) (st.footLoc16 l) := by
  rw [← State.footLoc16_congr h]
  exact t.keeps_storeLoc16 w hl

theorem State.keeps_exchanged16 :
    st.keeps (st.exchanged16 d s) ((st.footLoc16 (st.locate16 d).1).and (st.footLoc16 (st.operands16 d s).1.ls)) := by
  have mapRead := (st.operands16_dataOf d s).sameMap
  exact (st.keeps_operands16 d s).trans <| State.keeps_exchange Loc16.store_dataOf
    (fun w _ h => State.keeps_storeLoc16_of_sameMap (st.locate16_inRegs d) w (mapRead.trans h))
    (fun w _ h => State.keeps_storeLoc16_of_sameMap ((st.locate16 d).2.locate16_inRegs s) w (mapRead.trans h))

variable {st d s}

/-- XCHW moves a pointer only in the form that exchanges with AX. -/
theorem xchwForm_mem {m : Mem} (h : xchwForm d (.mem m) = true) : d = .ax := by
  cases d with
  | ax => rfl
  | _ => exact absurd h Bool.false_ne_true

/-- AX exchanged with memory leaves the PSW and so the bank as they are. -/
theorem State.exchanged16_psw_of_mem (st : State) (m : Mem) : (st.exchanged16 .ax (.mem m)).psw = st.psw := by
  obtain ⟨i, n, h⟩ := st.operands16_parts .ax (.mem m)
  refine exchange_invariant (P := fun t => t.psw = st.psw) (fun w t ht => ?writeAx) (fun w t ht => ?writeMem)
    (by rw [h])
  case writeAx => exact ht
  case writeMem => exact (Loc16.store_psw (fun _ => Loc16.noConfusion) w t).trans ht

/-- The exchange writes both operands, then the pointer, which is that of the bank selected before it. -/
theorem State.keeps_exchanged16_after16 (h : xchwForm d s = true) : st.keeps ((st.exchanged16 d s).after16 s)
    ((st.foot16 d s).and (st.footLoc16 (st.operands16 d s).1.ls)) := by
  have pointer : (st.exchanged16 d s).footPtr16 s = st.footPtr16 s :=
    State.footPtr16_congr (st.exchanged16_dataOf d s).sameMap fun m hm => by
      subst hm
      rw [xchwForm_mem h, State.exchanged16_psw_of_mem]
  have moved := State.keeps_after16 (st.exchanged16 d s) s
  rw [pointer] at moved
  exact ((st.keeps_exchanged16 d s).trans moved).of_exchange

/-- Where both operands can be used XCHW completes with the exchange. -/
theorem execXchw_of (h : xchwForm d s = true) (readD : st.reads16 d = true) (readS : st.reads16 s = true)
    (writeD : st.writes16 d = true) (writeS : st.writes16 s = true) :
    execXchw d s st = .next ((st.exchanged16 d s).after16 s) := by
  have direct := xchwForm_direct h
  have mapRead := (st.operands16_dataOf d s).sameMap
  have writableD : (st.operands16 d s).1.ld.writable st = true := (Bool.and_eq_true_iff.mp writeD).2
  have placeS : (st.operands16 d s).1.ls = (st.locate16 s).1 := State.second16 st d s direct
  have writableS : (st.operands16 d s).1.ls.writable st = true := by
    rw [placeS]
    exact (Bool.and_eq_true_iff.mp writeS).2
  rw [execXchw, run_bind_of _ (both16_of direct readD readS)]
  exact run_exchange_of (·.after16 s) Loc16.store_dataOf
    (fun w _ hm => write16_of w ((Loc16.writable_congr (mapRead.trans hm) _).trans writableD))
    (fun w _ hm => write16_of w ((Loc16.writable_congr (mapRead.trans hm) _).trans writableS))

end Exchange16

/-- Settles O21: at each width the exchange's equation, with its control state and frame by the parts of the exchange;
then which places are registers. -/
theorem xchExchanges : Obligations.XchExchanges := by
  refine ⟨?xch, ?xchw, fun l m => ⟨l.isReg_iff, m.isReg_iff⟩⟩
  case xch =>
    exact fun d s st h readD readS writeD writeS =>
      ⟨(st.exchanged8 d s).after8 s, execXch_of h readD readS writeD writeS, rfl,
        ((st.exchanged8_dataOf d s).trans (State.after8_dataOf _ s)).sameControl, State.keeps_exchanged8_after8 h⟩
  case xchw =>
    exact fun d s st h readD readS writeD writeS =>
      ⟨(st.exchanged16 d s).after16 s, execXchw_of h readD readS writeD writeS, rfl,
        ((st.exchanged16_dataOf d s).trans (State.after16_dataOf _ s)).sameControl, State.keeps_exchanged16_after16 h⟩

end Sys2Proof.Machine
end

section
/-! The eight 8-bit operations (O22, O23; 43_alu8 R380 to R388): both operands are read, the flags written, then the
destination, then the pointers moved. The parts ADD, ADDC, SUB, SUBC, CMP and AND, OR, XOR share are proved once for any
flags and any result. -/

namespace Sys2Proof.Machine

/-! ## Moving the pointers of both operands -/

/-- The pointers of both operands moved. -/
def State.moved8 (t : State) (d s : Op8) : State := (t.after8 d).after8 s

theorem State.moved8_dataOf (t : State) (d s : Op8) : t.DataOf (t.moved8 d s) :=
  (t.after8_dataOf d).trans (State.after8_dataOf _ s)

theorem State.moved8_psw (t : State) (d s : Op8) : (t.moved8 d s).psw = t.psw := by
  rw [State.moved8, State.after8_psw, State.after8_psw]

/-- The pointers moved last are those of the bank selected before the instruction, unless a form that moves one has
changed the bank. -/
theorem State.keeps.moved8 {st t : State} {d s : Op8} {f : Footprint} (kept : st.keeps t f) (data : st.DataOf t)
    (bank : ∀ m, d = .mem m ∨ s = .mem m → t.psw.rbs = st.psw.rbs) :
    st.keeps (t.moved8 d s) (f.and ((st.footPtr8 d).and (st.footPtr8 s))) := by
  have pointerD : t.footPtr8 d = st.footPtr8 d :=
    State.footPtr8_congr data.sameMap fun m hm => bank m (.inl hm)
  have pointerS : (t.after8 d).footPtr8 s = st.footPtr8 s :=
    State.footPtr8_congr (data.trans (t.after8_dataOf d)).sameMap fun m hm => by
      rw [State.after8_psw, bank m (.inr hm)]
  rw [← pointerD, ← pointerS]
  exact kept.trans ((t.keeps_after8 d).trans (State.keeps_after8 _ s))

/-! ## Flags, then the destination -/

/-- Only the two PSW bytes are parts of the PSW (10_state R42). -/
theorem Loc8.storedPsw_of_not_psw {l : Loc8} (hlow : l ≠ .pswl) (hhigh : l ≠ .pswh) (v : Byte) (p : Psw) :
    l.storedPsw v p = p := by
  cases l with
  | pswl => exact absurd rfl hlow
  | pswh => exact absurd rfl hhigh
  | _ => rfl

/-- Both operands read and the PSW written, before the destination is. -/
def State.flagged8 (st : State) (d s : Op8) (p : Psw) : State := { (st.operands8 d s).2 with psw := p }

/-- Both operands read, the PSW written, then the destination, before the pointers move. -/
def State.computed8 (st : State) (d s : Op8) (p : Psw) (v : Byte) : State :=
  (st.operands8 d s).1.ld.store v (st.flagged8 d s p)

section Compute

variable (st : State) (d s : Op8) (p : Psw) (v : Byte)

theorem State.operands8_psw : (st.operands8 d s).2.psw = st.psw := by
  obtain ⟨i, n, h⟩ := st.operands8_parts d s
  rw [h]

theorem State.flagged8_dataOf : st.DataOf (st.flagged8 d s p) := by
  obtain ⟨i, n, h⟩ := st.operands8_parts d s
  exact ⟨p, st.ram, st.mem, st.vutw, i, n, by rw [State.flagged8, h]⟩

/-- The PSW is neither a byte of memory nor an extension register. -/
theorem State.keeps_flagged8 : st.keeps (st.flagged8 d s p) Footprint.nothing :=
  (st.keeps_operands8 d s).trans (State.keeps_of_same ⟨rfl, rfl⟩ rfl rfl rfl Footprint.nothing)

theorem State.computed8_dataOf : st.DataOf (st.computed8 d s p v) :=
  (st.flagged8_dataOf d s p).trans (Loc8.store_dataOf _ v _)

theorem State.computed8_psw : (st.computed8 d s p v).psw = (st.operands8 d s).1.ld.storedPsw v p :=
  Loc8.store_psw _ v _

theorem State.keeps_computed8 : st.keeps (st.computed8 d s p v) (st.footLoc8 (st.locate8 d).1) :=
  (st.keeps_flagged8 d s p).trans
    (State.keeps_store8_of_sameMap (st.locate8_inArea d) v (st.flagged8_dataOf d s p).sameMap)

theorem State.flagged8_moved8_sameControl : st.sameControl ((st.flagged8 d s p).moved8 d s) :=
  ((st.flagged8_dataOf d s p).trans (State.moved8_dataOf _ d s)).sameControl

theorem State.computed8_moved8_sameControl : st.sameControl ((st.computed8 d s p v).moved8 d s) :=
  ((st.computed8_dataOf d s p v).trans (State.moved8_dataOf _ d s)).sameControl

/-- The flags of a sum or a difference, written after both operands are read. -/
theorem setArith_operands8 (r : Arith 8) :
    setArith r (st.operands8 d s).2 = .ok ((), st.flagged8 d s (st.psw.withArith r)) := by
  rw [setArith, modify_apply, State.operands8_psw, State.flagged8]

/-- The flags of a logical result, written after both operands are read. -/
theorem setLogic_operands8 :
    setLogic v (st.operands8 d s).2 = .ok ((), st.flagged8 d s (st.psw.withLogic v)) := by
  rw [setLogic, modify_apply, State.operands8_psw, State.flagged8]

variable {st d s}

theorem write8_flagged8 (writeD : st.writes8 d = true) :
    write8 (st.operands8 d s).1.ld v (st.flagged8 d s p) = .ok ((), st.computed8 d s p v) :=
  write8_of v ((Loc8.writable_congr (st.flagged8_dataOf d s p).sameMap _).trans (Bool.and_eq_true_iff.mp writeD).2)

/-- A pointer is moved only in a form whose destination is A or memory, and so is not a part of the PSW. -/
theorem alu8Form_storedPsw_of_mem {m : Mem} (h : alu8Form d s = true) (hmem : d = .mem m ∨ s = .mem m) :
    (st.operands8 d s).1.ld.storedPsw v p = p := by
  rcases hmem with rfl | rfl
  · rfl
  · cases d with
    | a => rfl
    | _ => exact absurd h Bool.false_ne_true

/-! ## The whole instruction, with any flags that leave the bank and any result -/

variable {p}

theorem State.keeps_computed8_moved8 (h : alu8Form d s = true) (bank : p.rbs = st.psw.rbs) :
    st.keeps ((st.computed8 d s p v).moved8 d s) (st.foot8 d s) :=
  (st.keeps_computed8 d s p v).moved8 (st.computed8_dataOf d s p v) fun m hmem => by
    rw [State.computed8_psw, alu8Form_storedPsw_of_mem p v h hmem, bank]

theorem State.keeps_flagged8_moved8 (bank : p.rbs = st.psw.rbs) :
    st.keeps ((st.flagged8 d s p).moved8 d s) ((st.footPtr8 d).and (st.footPtr8 s)) :=
  (st.keeps_flagged8 d s p).moved8 (st.flagged8_dataOf d s p) fun _ _ => bank

theorem State.computed8_moved8_psw (hlow : (st.operands8 d s).1.ld ≠ .pswl) (hhigh : (st.operands8 d s).1.ld ≠ .pswh) :
    ((st.computed8 d s p v).moved8 d s).psw = p := by
  rw [State.moved8_psw, State.computed8_psw, Loc8.storedPsw_of_not_psw hlow hhigh]

end Compute

/-! ## Where the operands can be used the instruction completes -/

section Completes

variable {st : State} {d s : Op8} (h : alu8Form d s = true) (readD : st.reads8 d = true) (readS : st.reads8 s = true)
include h readD readS

theorem run_arith8_store_of (f : Byte → Byte → Bool → Arith 8) (writeD : st.writes8 d = true) :
    let r := f (st.operands8 d s).1.a (st.operands8 d s).1.b st.psw.cy
    run (arith8 f true d s) st = .next ((st.computed8 d s (st.psw.withArith r) r.res).moved8 d s) := by
  intro r
  rw [arith8, run_bind_of _ (both8_of (alu8Form_direct h) readD readS), run_bind_of _ (get_apply _),
    State.operands8_psw, run_bind_of _ (setArith_operands8 st d s r), if_pos rfl,
    run_bind_of _ (write8_flagged8 _ r.res writeD), run_modify]
  rfl

theorem run_arith8_compare_of (f : Byte → Byte → Bool → Arith 8) :
    let r := f (st.operands8 d s).1.a (st.operands8 d s).1.b st.psw.cy
    run (arith8 f false d s) st = .next ((st.flagged8 d s (st.psw.withArith r)).moved8 d s) := by
  intro r
  rw [arith8, run_bind_of _ (both8_of (alu8Form_direct h) readD readS), run_bind_of _ (get_apply _),
    State.operands8_psw, run_bind_of _ (setArith_operands8 st d s r), if_neg Bool.false_ne_true,
    run_modify]
  rfl

theorem run_logic8_of (f : Byte → Byte → Byte) (writeD : st.writes8 d = true) :
    let v := f (st.operands8 d s).1.a (st.operands8 d s).1.b
    run (logic8 f d s) st = .next ((st.computed8 d s (st.psw.withLogic v) v).moved8 d s) := by
  intro v
  rw [logic8, run_bind_of _ (both8_of (alu8Form_direct h) readD readS), run_bind_of _ (setLogic_operands8 st d s v),
    run_bind_of _ (write8_flagged8 _ v writeD), run_modify]
  rfl

end Completes

/-- Settles O22: the four operations that store are one action with four functions, CMP the same action without the
store; its PSW, control state and frame by the parts of the computation. -/
theorem alu8Arithmetic : Obligations.Alu8Arithmetic := by
  intro d s st h readD readS x a b c flags
  refine ⟨fun writeD => ?stores, ?compares⟩
  case stores =>
    have completes (i : Instr) (f : Byte → Byte → Bool → Arith 8) (hexec : exec i st = run (arith8 f true d s) st) :
        ∃ t, exec i st = .next t ∧
          t = ((x.1.ld.store (f a b c).res { x.2 with psw := flags (f a b c) }).after8 d).after8 s ∧
          (x.1.ld ≠ .pswl → x.1.ld ≠ .pswh → t.psw = flags (f a b c)) ∧
          st.sameControl t ∧ st.keeps t (st.foot8 d s) :=
      ⟨_, hexec.trans (run_arith8_store_of h readD readS f writeD), rfl, State.computed8_moved8_psw _,
        st.computed8_moved8_sameControl d s _ _, State.keeps_computed8_moved8 _ h rfl⟩
    simp only [List.forall_mem_cons, List.not_mem_nil, false_imp_iff, implies_true, and_true]
    exact ⟨completes (.add d s) (fun a b _ => addN a b false) rfl, completes (.addc d s) addN rfl,
      completes (.sub d s) (fun a b _ => subN a b false) rfl, completes (.subc d s) subN rfl⟩
  case compares =>
    exact ⟨_, run_arith8_compare_of h readD readS (fun a b _ => subN a b false), rfl,
      st.flagged8_moved8_sameControl d s _, State.keeps_flagged8_moved8 rfl⟩

/-- Settles O23: the three operations are one action with three functions; its control state and frame by the parts of
the computation. -/
theorem alu8Logic : Obligations.Alu8Logic := by
  intro d s st h readD readS writeD x
  have completes (i : Instr) (f : Byte → Byte → Byte) (hexec : exec i st = run (logic8 f d s) st) :
      let v := f x.1.a x.1.b
      ∃ t, exec i st = .next t ∧
        t = ((x.1.ld.store v { x.2 with psw := { st.psw with
          s := v.msb, z := v == 0#8, pv := par8 v } }).after8 d).after8 s ∧
        st.sameControl t ∧ st.keeps t (st.foot8 d s) :=
    ⟨_, hexec.trans (run_logic8_of h readD readS f writeD), rfl,
      st.computed8_moved8_sameControl d s _ _, State.keeps_computed8_moved8 _ h rfl⟩
  simp only [List.forall_mem_cons, List.not_mem_nil, false_imp_iff, implies_true, and_true]
  exact ⟨completes (.and d s) (· &&& ·) rfl, completes (.or d s) (· ||| ·) rfl, completes (.xor d s) (· ^^^ ·) rfl⟩

end Sys2Proof.Machine
end

section
/-! ADDW, SUBW, CMPW, ADDG, SUBG (O24; 44_alu16_24 R430 to R433, R440 to R442): both operands are read, the flags
written with a free value in AC, then the destination. The accepted forms move no pointer. -/

namespace Sys2Proof.Machine

/-! ## The flags of a wide result, at either width -/

/-- AC after a wide operation: bit 0 of the next free value (U5, log 8). -/
def State.freeAc (t : State) : Bool := (Config.undef t.draws).getLsbD 0

/-- The PSW written and one free value used for it. -/
def State.flaggedWide (t : State) (p : Psw) : State := { t with psw := p, draws := t.draws + 1 }

theorem setWide_apply {n : Nat} (r : Arith n) (t : State) :
    setWide r t = .ok ((), t.flaggedWide (t.psw.withWide r t.freeAc)) := by
  rw [setWide, bind_of _ (draw_apply t), modify_apply]
  rfl

theorem State.flaggedWide_dataOf (t : State) (p : Psw) : t.DataOf (t.flaggedWide p) := ⟨_, _, _, _, _, _, rfl⟩

/-- Neither the PSW nor the count of free values is a byte of memory or an extension register. -/
theorem State.keeps_flaggedWide (t : State) (p : Psw) : t.keeps (t.flaggedWide p) Footprint.nothing :=
  State.keeps_of_same ⟨rfl, rfl⟩ rfl rfl rfl _

/-- What keeps all but `f` keeps all but a footprint with `f` as its first part. -/
theorem State.keeps.and_left {s t : State} {f : Footprint} (h : s.keeps t f) (g : Footprint) : s.keeps t (f.and g) :=
  h.mono (fun _ => List.mem_append_left _) (fun _ => List.mem_append_left _)

/-! ## 16 bits -/

/-- Both operands read and the flags of `r` written, before the destination is. -/
def State.flagged16 (st : State) (d s : Op16) (r : Arith 16) : State :=
  (st.operands16 d s).2.flaggedWide (st.psw.withWide r (st.operands16 d s).2.freeAc)

/-- Both operands read, the flags of `r` written, then its result. -/
def State.computed16 (st : State) (d s : Op16) (r : Arith 16) : State :=
  (st.operands16 d s).1.ld.store r.res (st.flagged16 d s r)

section Compute16

variable (st : State) (d s : Op16) (r : Arith 16)

theorem State.operands16_psw : (st.operands16 d s).2.psw = st.psw := by
  obtain ⟨i, n, h⟩ := st.operands16_parts d s
  rw [h]

theorem setWide_operands16 : setWide r (st.operands16 d s).2 = .ok ((), st.flagged16 d s r) := by
  rw [setWide_apply, State.operands16_psw, State.flagged16]

theorem State.flagged16_dataOf : st.DataOf (st.flagged16 d s r) :=
  (st.operands16_dataOf d s).trans (State.flaggedWide_dataOf _ _)

theorem State.keeps_flagged16 : st.keeps (st.flagged16 d s r) Footprint.nothing :=
  (st.keeps_operands16 d s).trans (State.keeps_flaggedWide _ _)

theorem State.computed16_dataOf : st.DataOf (st.computed16 d s r) :=
  (st.flagged16_dataOf d s r).trans (Loc16.store_dataOf _ _ _)

theorem State.keeps_computed16 : st.keeps (st.computed16 d s r) (st.foot16 d s) := by
  have destination : st.keeps (st.computed16 d s r) (st.footLoc16 (st.locate16 d).1) :=
    (st.keeps_flagged16 d s r).trans
      (State.keeps_storeLoc16_of_sameMap (st.locate16_inRegs d) r.res (st.flagged16_dataOf d s r).sameMap)
  exact destination.and_left _

variable {st d s}

theorem write16_flagged16 (writeD : st.writes16 d = true) :
    write16 (st.operands16 d s).1.ld r.res (st.flagged16 d s r) = .ok ((), st.computed16 d s r) :=
  write16_of r.res
    ((Loc16.writable_congr (st.flagged16_dataOf d s r).sameMap _).trans (Bool.and_eq_true_iff.mp writeD).2)

end Compute16

section Completes16

variable {st : State} {d s : Op16} (h : alu16Form d s = true) (readD : st.reads16 d = true)
  (readS : st.reads16 s = true) (f : Word → Word → Arith 16)
include h readD readS

/-- Where the operands can be used an operation that stores completes. -/
theorem run_arith16_store_of (writeD : st.writes16 d = true) : run (arith16 f true d s) st =
    .next (st.computed16 d s (f (st.operands16 d s).1.a (st.operands16 d s).1.b)) := by
  rw [arith16, run_bind_of _ (both16_of (alu16Form_direct h) readD readS),
    run_bind_of _ (setWide_operands16 st d s _), if_pos rfl, run_of_ok (write16_flagged16 _ writeD)]

/-- A comparison completes where both operands can be read. -/
theorem run_arith16_compare_of : run (arith16 f false d s) st =
    .next (st.flagged16 d s (f (st.operands16 d s).1.a (st.operands16 d s).1.b)) := by
  rw [arith16, run_bind_of _ (both16_of (alu16Form_direct h) readD readS),
    run_bind_of _ (setWide_operands16 st d s _), if_neg Bool.false_ne_true, run_of_ok (pure_apply _ _)]

end Completes16

/-! ## 24 bits -/

/-- No place of 24 bits has a byte of the PSW: only byte and word operands reach those two sfr offsets (log 11). -/
theorem Loc24.store_psw (l : Loc24) (v : Long) (s : State) : (l.store v s).psw = s.psw := by
  obtain ⟨r, m, x, i, h⟩ := l.store_parts v s
  rw [h]

/-- Only a store to SP changes SP. -/
theorem Loc24.store_dataOf {l : Loc24} (h : l ≠ .sp) (v : Long) (s : State) : s.DataOf (l.store v s) := by
  obtain ⟨r, m, x, i, hstore⟩ := l.store_parts v s
  rw [hstore, Loc24.storedSp, if_neg h]
  exact ⟨_, _, _, _, _, _, rfl⟩

/-- The destination of ADDG and SUBG is a register. -/
theorem alu24Form_dst {d s : Op24} (h : alu24Form d s = true) : ∃ g, d = .rg g := by
  cases d with
  | rg g => exact ⟨g, rfl⟩
  | _ => exact absurd h Bool.false_ne_true

/-- Both operands read and the flags of `r` written, before the destination is. -/
def State.flagged24 (st : State) (d s : Op24) (r : Arith 24) : State :=
  (st.operands24 d s).2.flaggedWide (st.psw.withWide r (st.operands24 d s).2.freeAc)

/-- Both operands read, the flags of `r` written, then its result. -/
def State.computed24 (st : State) (d s : Op24) (r : Arith 24) : State :=
  (st.operands24 d s).1.ld.store r.res (st.flagged24 d s r)

section Compute24

variable (st : State) (d s : Op24) (r : Arith 24)

/-- Reading both operands changes only the record of the host's exchanges. -/
theorem State.operands24_io : ∃ i, (st.operands24 d s).2 = { st with io := i } := by
  obtain ⟨i, hd⟩ := st.locate24_io d
  obtain ⟨j, hs⟩ := (st.locate24 d).2.locate24_io s
  obtain ⟨k, ha⟩ := (st.locate24 d).1.look_io ((st.locate24 d).2.locate24 s).2
  obtain ⟨l, hb⟩ := Loc24.look_io ((st.locate24 d).2.locate24 s).1
    ((st.locate24 d).1.look ((st.locate24 d).2.locate24 s).2).2
  exact ⟨l, by rw [State.operands24, hb, ha, hs, hd]⟩

theorem State.operands24_psw : (st.operands24 d s).2.psw = st.psw := by
  obtain ⟨i, h⟩ := st.operands24_io d s
  rw [h]

theorem State.keeps_operands24 : st.keeps (st.operands24 d s).2 Footprint.nothing := by
  obtain ⟨i, h⟩ := st.operands24_io d s
  rw [h]
  exact State.keeps_of_same ⟨rfl, rfl⟩ rfl rfl rfl _

theorem setWide_operands24 : setWide r (st.operands24 d s).2 = .ok ((), st.flagged24 d s r) := by
  rw [setWide_apply, State.operands24_psw, State.flagged24]

theorem State.flagged24_dataOf : st.DataOf (st.flagged24 d s r) :=
  (st.operands24_dataOf d s).trans (State.flaggedWide_dataOf _ _)

theorem State.keeps_flagged24 : st.keeps (st.flagged24 d s r) Footprint.nothing :=
  (st.keeps_operands24 d s).trans (State.keeps_flaggedWide _ _)

theorem State.computed24_psw :
    (st.computed24 d s r).psw = st.psw.withWide r (st.operands24 d s).2.freeAc :=
  Loc24.store_psw _ _ _

theorem State.keeps_computed24 : st.keeps (st.computed24 d s r) (st.foot24 d s) := by
  have stored := State.keeps_storeLoc24 (st.flagged24 d s r) r.res (st.locate24_inRegs d)
  rw [State.footLoc24_congr (st.flagged24_dataOf d s r).sameMap] at stored
  have destination : st.keeps (st.computed24 d s r) (st.footLoc24 (st.locate24 d).1) :=
    (st.keeps_flagged24 d s r).trans stored
  exact destination.and_left _

variable {st d s}

theorem State.computed24_sameControl (h : alu24Form d s = true) : st.sameControl (st.computed24 d s r) := by
  obtain ⟨g, rfl⟩ := alu24Form_dst h
  exact ((st.flagged24_dataOf _ s r).trans (Loc24.store_dataOf Loc24.noConfusion _ _)).sameControl

/-- ADDG and SUBG complete where the source can be read: the destination is a register, which always can. -/
theorem run_arith24_of (h : alu24Form d s = true) (readS : st.reads24 s = true) (f : Long → Long → Arith 24) :
    run (arith24 f d s) st =
      .next (st.computed24 d s (f (st.operands24 d s).1.a (st.operands24 d s).1.b)) := by
  obtain ⟨g, rfl⟩ := alu24Form_dst h
  have readD : st.reads24 (.rg g) = true := rfl
  have writableD (t : State) : (st.operands24 (.rg g) s).1.ld.writable t = true := rfl
  rw [arith24, run_bind_of _ (both24_of (alu24Form_direct h) readD readS),
    run_bind_of _ (setWide_operands24 st _ s _), run_of_ok (write24_of _ (writableD _))]
  rfl

end Compute24

/-- Settles O24: at each width the operations are one action with two functions, CMPW the same action without the store;
their control state and frame by the parts of the computation, with the free value as AC. -/
theorem aluWide : Obligations.AluWide := by
  refine ⟨?words, ?longs⟩
  case words =>
    intro d s st h readD readS x flags
    have completes (i : Instr) (f : Word → Word → Arith 16) (hexec : exec i st = run (arith16 f true d s) st)
        (writeD : st.writes16 d = true) :
        let r := f x.1.a x.1.b
        ∃ t ac, exec i st = .next t ∧
          t = x.1.ld.store r.res { x.2 with psw := flags r ac, draws := x.2.draws + 1 } ∧
          st.sameControl t ∧ st.keeps t (st.foot16 d s) :=
      ⟨_, x.2.freeAc, hexec.trans (run_arith16_store_of h readD readS f writeD), rfl,
        (st.computed16_dataOf d s _).sameControl, st.keeps_computed16 d s _⟩
    refine ⟨fun writeD => ?stores, ?compares⟩
    case stores =>
      simp only [List.forall_mem_cons, List.not_mem_nil, false_imp_iff, implies_true, and_true]
      exact ⟨completes (.addw d s) (fun a b => addN a b false) rfl writeD,
        completes (.subw d s) (fun a b => subN a b false) rfl writeD⟩
    case compares =>
      exact ⟨_, x.2.freeAc, run_arith16_compare_of h readD readS (fun a b => subN a b false), rfl,
        (st.flagged16_dataOf d s _).sameControl, st.keeps_flagged16 d s _⟩
  case longs =>
    intro d s st h readS x flags
    have completes (i : Instr) (f : Long → Long → Arith 24) (hexec : exec i st = run (arith24 f d s) st) :
        let r := f x.1.a x.1.b
        ∃ t ac, exec i st = .next t ∧
          t = x.1.ld.store r.res { x.2 with psw := flags r ac, draws := x.2.draws + 1 } ∧
          t.psw = flags r ac ∧ st.sameControl t ∧ st.keeps t (st.foot24 d s) :=
      ⟨_, x.2.freeAc, hexec.trans (run_arith24_of h readS f), rfl, st.computed24_psw d s _,
        State.computed24_sameControl _ h, st.keeps_computed24 d s _⟩
    simp only [List.forall_mem_cons, List.not_mem_nil, false_imp_iff, implies_true, and_true]
    exact ⟨completes (.addg d s) (fun a b => addN a b false) rfl,
      completes (.subg d s) (fun a b => subN a b false) rfl⟩

end Sys2Proof.Machine
end

section
/-! A register read after another one is written (10_state R48 to R52): the rules of the multiplications, divisions
and sums of products (O25 to O29). -/

namespace Sys2Proof

/-- The pair the register is a byte of (R50). -/
def R8.pair (n : R8) : RP := RP.ofNum (n.num / 2)

theorem R8.num_injective : Function.Injective R8.num := fun m n h => by
  have inverse (k : R8) : R8.ofNum k.num = k := by cases k <;> rfl
  rw [← inverse m, h, inverse n]

theorem RP.num_injective : Function.Injective RP.num := fun m n h => by
  have inverse (k : RP) : RP.ofNum k.num = k := by cases k <;> rfl
  rw [← inverse m, h, inverse n]

theorem RG.pair_injective : Function.Injective RG.pair := by
  intro g h hpair
  cases g <;> cases h <;> first | rfl | cases hpair

namespace Machine

/-! ## Registers apart -/

theorem regKey_of_pair (b : BitVec 3) (n : R8) :
    regKey b n = pairKey b n.pair ∨ regKey b n = pairKey b n.pair + 1 := by
  cases n <;> first | exact .inl rfl | exact .inr rfl

theorem regKey_ne {m n : R8} (b : BitVec 3) (h : m ≠ n) : regKey b m ≠ regKey b n := by
  have hnum := R8.num_injective.ne h
  unfold regKey
  omega

/-- Two pairs share no byte. -/
theorem pairKey_apart {m n : RP} (b : BitVec 3) (h : m ≠ n) :
    pairKey b m + 1 < pairKey b n ∨ pairKey b n + 1 < pairKey b m := by
  have hnum := RP.num_injective.ne h
  unfold pairKey
  omega

/-- A register that is no byte of a pair. -/
theorem regKey_apart {n : R8} {p : RP} (b : BitVec 3) (h : n.pair ≠ p) :
    regKey b n ≠ pairKey b p ∧ regKey b n ≠ pairKey b p + 1 := by
  have hpair := pairKey_apart b h
  rcases regKey_of_pair b n with hkey | hkey <;> omega

variable {s : State}

theorem State.pairAX_cases (s : State) : s.pairAX = .rp0 ∨ s.pairAX = .rp2 := by
  unfold State.pairAX
  split <;> simp

/-- AX is none of the pairs 4 to 7, the lower words of the 24-bit registers. -/
theorem State.pairAX_ne_pair (s : State) (g : RG) : s.pairAX ≠ g.pair := by
  rcases s.pairAX_cases with h | h <;> rw [h] <;> cases g <;> decide

theorem State.regB_pair_ne (s : State) : s.regB.pair ≠ s.pairAX ∧ ∀ g : RG, s.regB.pair ≠ g.pair := by
  unfold State.regB State.pairAX
  split <;> exact ⟨by decide, fun g => by cases g <;> decide⟩

theorem State.regC_pair_ne (s : State) : s.regC.pair ≠ s.pairAX ∧ ∀ g : RG, s.regC.pair ≠ g.pair := by
  unfold State.regC State.pairAX
  split <;> exact ⟨by decide, fun g => by cases g <;> decide⟩

theorem State.regB_ne_regC (s : State) : s.regB ≠ s.regC := by
  unfold State.regB State.regC
  split <;> decide

/-! ## Bytes and words of internal RAM -/

theorem append_congr {v w : Nat} {x x' : BitVec v} {y y' : BitVec w} (hx : x = x') (hy : y = y') :
    x ++ y = x' ++ y' := by
  rw [hx, hy]

section Ram

variable {j k : Nat} (w : Word)

theorem State.setRam16_wf (h : s.ram.wf = true) : (s.setRam16 k w).ram.wf = true :=
  State.setRam8_wf _ _ (State.setRam8_wf _ _ h)

theorem State.ram8_setRam16_other (hlo : j ≠ k) (hhi : j ≠ k + 1) : (s.setRam16 k w).ram8 j = s.ram8 j := by
  rw [State.setRam16, State.ram8_setRam8_other _ hhi, State.ram8_setRam8_other _ hlo]

theorem State.ram8_setRam16_low (h : s.ram.wf = true) : (s.setRam16 k w).ram8 k = w.extractLsb' 0 8 := by
  rw [State.setRam16, State.ram8_setRam8_other _ (Nat.ne_of_lt k.lt_succ_self), State.ram8_setRam8 _ _ _ h, if_pos rfl]

theorem State.ram8_setRam16_high (h : s.ram.wf = true) : (s.setRam16 k w).ram8 (k + 1) = w.extractLsb' 8 8 := by
  rw [State.setRam16, State.ram8_setRam8 _ _ _ (State.setRam8_wf _ _ h), if_pos rfl]

theorem State.ram16_setRam8_other {v : Byte} (hlo : j ≠ k) (hhi : j + 1 ≠ k) : (s.setRam8 k v).ram16 j = s.ram16 j := by
  rw [State.ram16, State.ram16, State.ram8_setRam8_other v hlo, State.ram8_setRam8_other v hhi]

theorem State.ram16_setRam16_other (h : j + 1 < k ∨ k + 1 < j) : (s.setRam16 k w).ram16 j = s.ram16 j := by
  rw [State.ram16, State.ram16, State.ram8_setRam16_other w (by omega) (by omega),
    State.ram8_setRam16_other w (by omega) (by omega)]

end Ram

/-! ## Registers of the current bank -/

theorem State.r8_setR8_other {m n : R8} (v : Byte) (h : m ≠ n) : (s.setR8 n v).r8 m = s.r8 m :=
  State.ram8_setRam8_other v (regKey_ne s.psw.rbs h)

theorem State.r8_setRp_other {n : R8} {p : RP} (w : Word) (h : n.pair ≠ p) : (s.setRp p w).r8 n = s.r8 n :=
  State.ram8_setRam16_other w (regKey_apart s.psw.rbs h).1 (regKey_apart s.psw.rbs h).2

theorem State.rp_setR8_other {n : R8} {p : RP} (v : Byte) (h : n.pair ≠ p) : (s.setR8 n v).rp p = s.rp p := by
  obtain ⟨hlo, hhi⟩ := regKey_apart s.psw.rbs h
  exact State.ram16_setRam8_other hlo.symm hhi.symm

theorem State.rp_setRp_other {m n : RP} (w : Word) (h : m ≠ n) : (s.setRp n w).rp m = s.rp m :=
  State.ram16_setRam16_other w (pairKey_apart s.psw.rbs h)

/-! ## A, X and AX -/

theorem State.ax_eq_bytes (s : State) : s.ax = s.a ++ s.r8 s.regX := by
  rw [State.ax_eq_ram8s, State.a_eq_ram8, State.r8, State.regKey_regX]

theorem State.ax_setAx (w : Word) (h : s.ram.wf = true) : (s.setAx w).ax = w := State.rp_setRp s.pairAX w h

theorem State.a_setAx (w : Word) (h : s.ram.wf = true) : (s.setAx w).a = w.extractLsb' 8 8 := by
  rw [State.a_eq_ram8, State.setAx, State.setRp, State.setRpOf, State.pairKey_pairAX]
  exact State.ram8_setRam16_high w h

theorem State.x_setAx (w : Word) (h : s.ram.wf = true) : (s.setAx w).r8 s.regX = w.extractLsb' 0 8 := by
  rw [State.r8, State.setAx_psw, State.regKey_regX, State.setAx, State.setRp, State.setRpOf, State.pairKey_pairAX]
  exact State.ram8_setRam16_low w h

theorem State.a_setR8_other {n : R8} (v : Byte) (h : n ≠ s.regA) : (s.setR8 n v).a = s.a :=
  State.r8_setR8_other v h.symm

theorem State.ax_setR8_other {n : R8} (v : Byte) (hA : n ≠ s.regA) (hX : n ≠ s.regX) :
    (s.setR8 n v).ax = s.ax := by
  rw [State.ax_eq_bytes, State.ax_eq_bytes, State.a_setR8_other v hA]
  exact congrArg (s.a ++ ·) (State.r8_setR8_other v hX.symm)

theorem State.ax_setRp_other {p : RP} (w : Word) (h : p ≠ s.pairAX) : (s.setRp p w).ax = s.ax :=
  State.rp_setRp_other w h.symm

/-! ## AXDE -/

theorem State.setAxde_wf (v : BitVec 32) (h : s.ram.wf = true) : (s.setAxde v).ram.wf = true :=
  State.setRam16_wf _ (State.setRam16_wf _ h)

theorem State.ax_setAxde (v : BitVec 32) (h : s.ram.wf = true) : (s.setAxde v).ax = v.extractLsb' 16 16 := by
  have hde : RP.rp6 ≠ (s.setAx (v.extractLsb' 16 16)).pairAX := (s.pairAX_ne_pair .tde).symm
  rw [State.setAxde, State.ax_setRp_other _ hde, State.ax_setAx _ h]

theorem State.de_setAxde (v : BitVec 32) (h : s.ram.wf = true) : (s.setAxde v).rp .rp6 = v.extractLsb' 0 16 :=
  State.rp_setRp .rp6 _ (State.setRam16_wf _ h)

theorem State.axde_setAxde (v : BitVec 32) (h : s.ram.wf = true) : (s.setAxde v).axde = v := by
  rw [State.axde, State.ax_setAxde v h, State.de_setAxde v h,
    BitVec.extractLsb'_append_extractLsb'_eq_extractLsb' (by rfl)]
  simp

theorem State.r8_setAxde_other {n : R8} (v : BitVec 32) (hax : n.pair ≠ s.pairAX) (hde : n.pair ≠ .rp6) :
    (s.setAxde v).r8 n = s.r8 n :=
  (State.r8_setRp_other _ hde).trans (State.r8_setRp_other _ hax)

theorem State.axde_setR8_other {n : R8} (v : Byte) (hax : n.pair ≠ s.pairAX) (hde : n.pair ≠ .rp6) :
    (s.setR8 n v).axde = s.axde :=
  append_congr (State.rp_setR8_other v hax) (State.rp_setR8_other v hde)

/-! ## Frames -/

theorem State.only_ram_trans {t u : State} (h : t = { s with ram := t.ram }) (g : u = { t with ram := u.ram }) :
    u = { s with ram := u.ram } := by
  rw [g, h]

theorem State.setRp_only_ram (s : State) (p : RP) (w : Word) :
    s.setRp p w = { s with ram := (s.setRp p w).ram } := rfl

theorem State.setAxde_only_ram (s : State) (v : BitVec 32) :
    s.setAxde v = { s with ram := (s.setAxde v).ram } :=
  State.only_ram_trans (s.setRp_only_ram _ _) (State.setRp_only_ram _ _ _)

/-- PC, PSW and the count of free values are neither bytes nor extension registers. -/
theorem State.keeps_setRest (s : State) (x : PAddr) (p : Psw) (d : Nat) (f : Footprint) :
    s.keeps { s with pc := x, psw := p, draws := d } f := by
  refine State.keeps_of_same (s := s) ⟨?_, ?_⟩ ?_ ?_ ?_ f <;> rfl

/-- Two updates with one footprint. -/
theorem State.keeps.trans_same {t u : State} {f : Footprint} (h : s.keeps t f) (g : t.keeps u f) : s.keeps u f :=
  (h.trans g).mono (fun _ hb => (List.mem_append.mp hb).elim id id) fun _ hx => (List.mem_append.mp hx).elim id id

theorem Footprint.and_assoc (f g h : Footprint) : (f.and g).and h = f.and (g.and h) := by
  simp only [Footprint.and, List.append_assoc]

theorem State.keeps_setAx (s : State) (w : Word) : s.keeps (s.setAx w) (s.footRp s.pairAX) := s.keeps_setRp s.pairAX w

theorem State.keeps_setAxde (s : State) (v : BitVec 32) :
    s.keeps (s.setAxde v) ((s.footRp s.pairAX).and (s.footRp .rp6)) :=
  (s.keeps_setAx _).trans (State.keeps_setRp _ .rp6 _)

/-! ## 24-bit registers -/

theorem State.rg_setRp_other {g : RG} {p : RP} (w : Word) (h : p ≠ g.pair) : (s.setRp p w).rg g = s.rg g :=
  congrArg (s.ext g.ext ++ ·) (State.rp_setRp_other w h.symm)

theorem State.rg_setR8_other {g : RG} {n : R8} (v : Byte) (h : n.pair ≠ g.pair) : (s.setR8 n v).rg g = s.rg g :=
  congrArg (s.ext g.ext ++ ·) (State.rp_setR8_other v h)

theorem State.ext_setExt_other {e f : R3} (v : Byte) (h : e ≠ f) : (s.setExt f v).ext e = s.ext e := by
  have hidx : (extIdx s.psw.rbs f).val ≠ (extIdx s.psw.rbs e).val := by
    intro heq
    simp only [extIdx, Nat.add_left_cancel_iff] at heq
    cases e <;> cases f <;> first | exact h rfl | cases heq
  exact Vector.getElem_set_ne (Fin.isLt _) (Fin.isLt _) hidx

theorem State.rg_setRg_other {g h : RG} (l : Long) (hne : g ≠ h) : (s.setRg h l).rg g = s.rg g := by
  have hext : g.ext ≠ h.ext := by
    intro heq
    cases g <;> cases h <;> first | exact hne rfl | cases heq
  exact append_congr (State.ext_setExt_other _ hext) (State.rp_setRp_other _ (RG.pair_injective.ne hne))

theorem State.r8_setRg_other {g : RG} {n : R8} (l : Long) (h : n.pair ≠ g.pair) : (s.setRg g l).r8 n = s.r8 n :=
  State.r8_setRp_other _ h

theorem State.ax_setRg (g : RG) (l : Long) : (s.setRg g l).ax = s.ax :=
  State.rp_setRp_other _ (s.pairAX_ne_pair g)

end Machine

end Sys2Proof
end

section
/-! MULU, MULUW, MULW, DIVUW, DIVUX (O25, O26; 45_muldiv_mac R470 to R474): the results as whole numbers, what stands
where two results share a register, and the frame. -/

namespace Sys2Proof.Machine

/-! ## The parts of a result -/

theorem toNat_ofNat_high16 {m : Nat} (h : m < 2 ^ 32) :
    ((BitVec.ofNat 32 m).extractLsb' 16 16).toNat = m / 2 ^ 16 := by
  simp only [BitVec.extractLsb'_toNat, BitVec.toNat_ofNat, Nat.shiftRight_eq_div_pow]
  omega

theorem toNat_ofNat_low16 (m : Nat) : ((BitVec.ofNat 32 m).extractLsb' 0 16).toNat = m % 2 ^ 16 := by
  simp only [BitVec.extractLsb'_toNat, BitVec.toNat_ofNat, Nat.shiftRight_zero]
  omega

theorem toNat_ofNat_high8 {m : Nat} (h : m < 2 ^ 16) :
    ((BitVec.ofNat 16 m).extractLsb' 8 8).toNat = m / 2 ^ 8 := by
  simp only [BitVec.extractLsb'_toNat, BitVec.toNat_ofNat, Nat.shiftRight_eq_div_pow]
  omega

theorem toNat_ofNat_low8 (m : Nat) : ((BitVec.ofNat 16 m).extractLsb' 0 8).toNat = m % 2 ^ 8 := by
  simp only [BitVec.extractLsb'_toNat, BitVec.toNat_ofNat, Nat.shiftRight_zero]
  omega

theorem toInt_ofInt_high16 {z : Int} (hlo : -2 ^ 31 ≤ z) (hhi : z < 2 ^ 31) :
    ((BitVec.ofInt 32 z).extractLsb' 16 16).toInt = z / 2 ^ 16 := by
  simp only [BitVec.toInt_eq_toNat_cond, BitVec.extractLsb'_toNat, BitVec.toNat_ofInt, Nat.shiftRight_eq_div_pow]
  omega

theorem toNat_ofInt_low16 (z : Int) : (((BitVec.ofInt 32 z).extractLsb' 0 16).toNat : Int) = z % 2 ^ 16 := by
  simp only [BitVec.extractLsb'_toNat, BitVec.toNat_ofInt, Nat.shiftRight_zero]
  omega

variable {s : State}

/-! ## Products -/

theorem State.ax_setProduct (n : RP) (p : BitVec 32) (h : s.ram.wf = true) :
    (s.setProduct n p).ax = p.extractLsb' 16 16 := State.ax_setAx _ (State.setRam16_wf _ h)

/-- The low half stays where the pair is not AX. -/
theorem State.rp_setProduct {n : RP} (p : BitVec 32) (h : s.ram.wf = true) (hn : n ≠ s.pairAX) :
    (s.setProduct n p).rp n = p.extractLsb' 0 16 :=
  (State.rp_setRp_other _ hn).trans (State.rp_setRp n _ h)

theorem State.keeps_setProduct (s : State) (n : RP) (p : BitVec 32) :
    s.keeps (s.setProduct n p) ((s.footRp s.pairAX).and (s.footRp n)) :=
  ((s.keeps_setRp n _).trans (State.keeps_setAx _ _)).mono
    (fun _ h => List.mem_append.mpr (List.mem_append.mp h).symm)
    (fun _ h => List.mem_append.mpr (List.mem_append.mp h).symm)

/-- Settles O25: a product of two bytes is a word; the two halves of a product of two words are its quotient and
remainder by 2^16. -/
theorem multiply : Obligations.Multiply := by
  intro s n p hinv
  have hwf := hinv.ramForm
  refine ⟨⟨_, rfl, ?mulu, rfl, s.keeps_setAx _⟩, ⟨_, rfl, ?muluwHigh, fun hp => ?muluwLow, rfl, s.keeps_setProduct p _⟩,
    ⟨_, rfl, ?mulwHigh, fun hp => ?mulwLow, rfl, s.keeps_setProduct p _⟩⟩
  case mulu =>
    have bound : s.a.toNat * (s.r8 n).toNat < 2 ^ 16 := BitVec.toNat_mul_toNat_lt
    rw [State.ax_setAx _ hwf, BitVec.toNat_ofNat, Nat.mod_eq_of_lt bound]
  case muluwHigh =>
    have bound : s.ax.toNat * (s.rp p).toNat < 2 ^ 32 := BitVec.toNat_mul_toNat_lt
    rw [State.ax_setProduct _ _ hwf, toNat_ofNat_high16 bound]
  case muluwLow => rw [State.rp_setProduct _ hwf hp, toNat_ofNat_low16]
  case mulwHigh =>
    have least : -(2 ^ 30) ≤ s.ax.toInt * (s.rp p).toInt := BitVec.le_toInt_mul_toInt
    have greatest : s.ax.toInt * (s.rp p).toInt ≤ 2 ^ 30 := BitVec.toInt_mul_toInt_le
    rw [State.ax_setProduct _ _ hwf, toInt_ofInt_high16 (by omega) (by omega)]
  case mulwLow => rw [State.rp_setProduct _ hwf hp, toNat_ofInt_low16]

/-! ## Quotients and remainders -/

/-- What the statements write for a zero divisor, as `divide` has it. -/
theorem divide_toNat {w : Nat} (n : Nat) (d : BitVec w) (ones low : Nat) :
    divide n d.toNat ones low = (if d = 0#w then ones else n / d.toNat, if d = 0#w then low else n % d.toNat) := by
  unfold divide
  split
  next h => rw [if_pos (BitVec.eq_of_toNat_eq h), if_pos (BitVec.eq_of_toNat_eq h)]
  next h =>
    have hd : d ≠ 0#w := fun hzero => h (by rw [hzero]; rfl)
    rw [if_neg hd, if_neg hd]

/-- A quotient is no larger than its dividend; that of a zero divisor is all ones. -/
theorem quotient_le {w : Nat} {n ones : Nat} (d : BitVec w) (h : n ≤ ones) :
    (if d = 0#w then ones else n / d.toNat) ≤ ones := by
  split
  · exact Nat.le_refl ones
  · exact Nat.le_trans (Nat.div_le_self n _) h

/-- A remainder fits the divisor's register, and so does the part of the dividend that stands for it. -/
theorem remainder_lt {w : Nat} (n : Nat) (d low : BitVec w) :
    (if d = 0#w then low.toNat else n % d.toNat) < 2 ^ w := by
  split
  · exact low.isLt
  next h =>
    have hpos : 0 < d.toNat := Nat.pos_of_ne_zero fun hzero => h (BitVec.eq_of_toNat_eq hzero)
    exact Nat.lt_trans (Nat.mod_lt n hpos) d.isLt

/-- The quotient to AX, then the remainder to R(n) (R473). -/
def State.dividedW (s : State) (n : R8) (q r : Nat) : State := (s.setAx (BitVec.ofNat 16 q)).setR8 n (BitVec.ofNat 8 r)

/-- The quotient to AXDE, then the remainder to RP(n) (R474). -/
def State.dividedX (s : State) (n : RP) (q r : Nat) : State :=
  (s.setAxde (BitVec.ofNat 32 q)).setRp n (BitVec.ofNat 16 r)

theorem State.dividedW_only_ram (s : State) (n : R8) (q r : Nat) :
    s.dividedW n q r = { s with ram := (s.dividedW n q r).ram } := rfl

theorem State.dividedX_only_ram (s : State) (n : RP) (q r : Nat) :
    s.dividedX n q r = { s with ram := (s.dividedX n q r).ram } :=
  State.only_ram_trans (s.setAxde_only_ram _) (State.setRp_only_ram _ n _)

theorem State.keeps_dividedW (s : State) (n : R8) (q r : Nat) :
    s.keeps (s.dividedW n q r) ((s.footRp s.pairAX).and (s.footR8 n)) :=
  (s.keeps_setAx _).trans (State.keeps_setR8 _ n _)

theorem State.keeps_dividedX (s : State) (n : RP) (q r : Nat) :
    s.keeps (s.dividedX n q r) (((s.footRp s.pairAX).and (s.footRp .rp6)).and (s.footRp n)) :=
  (s.keeps_setAxde _).trans (State.keeps_setRp _ n _)

theorem exec_divuw (n : R8) (s : State) : exec (.divuw n) s = .next (s.dividedW n
    (if s.r8 n = 0#8 then 0xFFFF else s.ax.toNat / (s.r8 n).toNat)
    (if s.r8 n = 0#8 then (s.r8 s.regX).toNat else s.ax.toNat % (s.r8 n).toNat)) := by
  have hexec : exec (.divuw n) s = execDivuw n s := rfl
  simp only [hexec, execDivuw, run_modify, divide_toNat, State.dividedW]

theorem exec_divux (n : RP) (s : State) : exec (.divux n) s = .next (s.dividedX n
    (if s.rp n = 0#16 then 0xFFFFFFFF else s.axde.toNat / (s.rp n).toNat)
    (if s.rp n = 0#16 then (s.rp .rp6).toNat else s.axde.toNat % (s.rp n).toNat)) := by
  have hexec : exec (.divux n) s = execDivux n s := rfl
  simp only [hexec, execDivux, run_modify, divide_toNat, State.dividedX]

section DividedW

variable {n : R8} {q r : Nat} (h : s.ram.wf = true)
include h

theorem State.r8_dividedW (hr : r < 2 ^ 8) : ((s.dividedW n q r).r8 n).toNat = r := by
  have hwf : (s.setAx (BitVec.ofNat 16 q)).ram.wf = true := State.setRam16_wf _ h
  rw [State.dividedW, State.r8_setR8 n _ hwf, BitVec.toNat_ofNat, Nat.mod_eq_of_lt hr]

theorem State.ax_dividedW (hq : q < 2 ^ 16) (hA : n ≠ s.regA) (hX : n ≠ s.regX) :
    (s.dividedW n q r).ax.toNat = q := by
  have hax : (s.dividedW n q r).ax = (s.setAx (BitVec.ofNat 16 q)).ax := State.ax_setR8_other _ hA hX
  rw [hax, State.ax_setAx _ h, BitVec.toNat_ofNat, Nat.mod_eq_of_lt hq]

theorem State.a_dividedW (hq : q < 2 ^ 16) (hA : n ≠ s.regA) : (s.dividedW n q r).a.toNat = q / 2 ^ 8 := by
  have ha : (s.dividedW n q r).a = (s.setAx (BitVec.ofNat 16 q)).a := State.a_setR8_other _ hA
  rw [ha, State.a_setAx _ h, toNat_ofNat_high8 hq]

theorem State.x_dividedW (hX : n ≠ s.regX) : ((s.dividedW n q r).r8 s.regX).toNat = q % 2 ^ 8 := by
  rw [State.dividedW, State.r8_setR8_other _ hX.symm, State.x_setAx _ h, toNat_ofNat_low8]

end DividedW

section DividedX

variable {p : RP} {q r : Nat} (h : s.ram.wf = true)
include h

theorem State.rp_dividedX (hr : r < 2 ^ 16) : ((s.dividedX p q r).rp p).toNat = r := by
  rw [State.dividedX, State.rp_setRp p _ (State.setAxde_wf _ h), BitVec.toNat_ofNat, Nat.mod_eq_of_lt hr]

theorem State.ax_dividedX (hq : q < 2 ^ 32) (hp : p ≠ s.pairAX) : (s.dividedX p q r).ax.toNat = q / 2 ^ 16 := by
  have hax : (s.dividedX p q r).ax = (s.setAxde (BitVec.ofNat 32 q)).ax := State.ax_setRp_other _ hp
  rw [hax, State.ax_setAxde _ h, toNat_ofNat_high16 hq]

theorem State.de_dividedX (hp : p ≠ .rp6) : ((s.dividedX p q r).rp .rp6).toNat = q % 2 ^ 16 := by
  rw [State.dividedX, State.rp_setRp_other _ hp.symm, State.de_setAxde _ h, toNat_ofNat_low16]

end DividedX

/-- Settles O26: quotient and remainder fit their registers; the one written last stands where the two overlap. -/
theorem divideHolds : Obligations.Divide := by
  intro s n p hinv
  have hwf := hinv.ramForm
  refine ⟨⟨_, exec_divuw n s, s.dividedW_only_ram n _ _, s.keeps_dividedW n _ _, ?divuw⟩,
    ⟨_, exec_divux p s, s.dividedX_only_ram p _ _, s.keeps_dividedX p _ _, ?divux⟩⟩
  case divuw =>
    intro q r
    have hq : q < 2 ^ 16 := Nat.lt_succ_of_le (quotient_le _ (Nat.le_of_lt_succ s.ax.isLt))
    exact ⟨State.r8_dividedW hwf (remainder_lt _ _ _), State.ax_dividedW hwf hq, State.a_dividedW hwf hq,
      State.x_dividedW hwf⟩
  case divux =>
    intro q r
    have hq : q < 2 ^ 32 := Nat.lt_succ_of_le (quotient_le _ (Nat.le_of_lt_succ s.axde.isLt))
    exact ⟨State.rp_dividedX hwf (remainder_lt _ _ _), State.ax_dividedX hwf hq, State.de_dividedX hwf⟩

end Sys2Proof.Machine
end

section
/-! MACW and MACSW (O27, O28; 45_muldiv_mac R480, R481): what one pass does, what every pass leaves alone, and the sum
after a number of passes. -/

namespace Sys2Proof.Machine

variable {s t u : State}

/-! ## The word of a table -/

/-- A word of the page 0FE00H is read from internal RAM, without effect. -/
theorem readMem16_ramAddr {k : Nat} (hlo : 0xFD00 ≤ k) (hhi : k + 1 < 0xFF00) :
    readMem16 (s.ramAddr k) s = .ok (s.ram16 k, s) := by
  have following : s.ramAddr k + 1 = s.ramAddr (k + 1) := by
    rw [State.ramAddr, State.ramAddr, ← Nat.add_assoc, BitVec.ofNat_add (s.locBase + k) 1]
    rfl
  have low := State.peek_ramAddr (s := s) hlo (Nat.lt_of_succ_lt hhi)
  have high : s.peek (s.ramAddr k + 1) = some (s.ram8 (k + 1)) := by
    rw [following]
    exact State.peek_ramAddr (by omega) hhi
  obtain ⟨look, readable⟩ := State.look16_of_peek (State.peek16_of_bytes low high)
  rw [readMem16_of readable, look]
  rfl

theorem readMem16_table {p : Byte} (hp : p ≠ 0xFF#8) :
    readMem16 (BitVec.ofNat 24 (s.locBase + 0xFE00 + p.toNat)) s = .ok (s.ram16 (0xFE00 + p.toNat), s) := by
  have hlt : p.toNat < 0xFF := by bv_omega
  rw [Nat.add_assoc]
  exact readMem16_ramAddr (by omega) (by omega)

/-! ## One pass -/

/-- AXDE with the product of the two words B and C point at added, as a whole number. -/
def State.macSum (s : State) : Int :=
  s.axde.toInt +
    (s.ram16 (0xFE00 + (s.r8 s.regB).toNat)).toInt * (s.ram16 (0xFE00 + (s.r8 s.regC).toNat)).toInt

/-- The sum does not fit AXDE. -/
def State.MacOverflows (s : State) : Prop := 0x7FFFFFFF < s.macSum ∨ s.macSum < -0x80000000

/-- The state a pass that overflows leaves: the limit, or an undefined value (U17). -/
def State.macOverflowed (s : State) (saturate : Bool) : State :=
  if saturate then s.setAxde (if 0 < s.macSum then 0x7FFFFFFF#32 else 0x80000000#32)
  else { s with draws := s.draws + 1 }.setAxde (Config.undef s.draws)

/-- The sum written, before the pointers move. -/
def State.macAdded (s : State) : State := s.setAxde (BitVec.ofInt 32 s.macSum)

/-- The sum written and B moved on. -/
def State.macMovedB (s : State) : State := s.macAdded.setR8 s.regB (s.macAdded.r8 s.regB + 2)

/-- The state after a pass that goes on. -/
def State.macNext (s : State) : State := s.macMovedB.setR8 s.regC (s.macMovedB.r8 s.regC + 2)

section MacLoop

variable (saturate : Bool) (n : Nat)

theorem macLoop_zero (s : State) : macLoop saturate 0 s = .ok (false, s) := rfl

theorem macLoop_straddle (h : s.r8 s.regB = 0xFF#8 ∨ s.r8 s.regC = 0xFF#8) :
    macLoop saturate (n + 1) s = .error (.refused .macStraddle) := by
  rw [macLoop, bind_of _ (get_apply s), if_pos h]
  rfl

variable (hB : s.r8 s.regB ≠ 0xFF#8) (hC : s.r8 s.regC ≠ 0xFF#8)
include hB hC

theorem macLoop_overflow (h : s.MacOverflows) :
    macLoop saturate (n + 1) s = .ok (true, s.macOverflowed saturate) := by
  rw [macLoop, bind_of _ (get_apply s), if_neg (not_or.mpr ⟨hB, hC⟩), bind_of _ (readMem16_table hB),
    bind_of _ (readMem16_table hC)]
  refine Eq.trans (congrFun (if_pos h) s) ?_
  cases saturate <;> rfl

theorem macLoop_next (h : ¬s.MacOverflows) : macLoop saturate (n + 1) s = macLoop saturate n s.macNext := by
  rw [macLoop, bind_of _ (get_apply s), if_neg (not_or.mpr ⟨hB, hC⟩), bind_of _ (readMem16_table hB),
    bind_of _ (readMem16_table hC)]
  exact congrFun (if_neg h) s

end MacLoop

/-! ## What every pass leaves alone -/

/-- The registers a sum of products changes: AX, DE, B and C of the current bank. -/
def State.footMac (s : State) : Footprint :=
  ((s.footRp s.pairAX).and (s.footRp .rp6)).and ((s.footR8 s.regB).and (s.footR8 s.regC))

/-- `t` is `s` but for AX, DE, B and C and the count of free values. -/
def State.MacFrame (s t : State) : Prop :=
  (∃ r d, t = { s with ram := r, draws := d }) ∧ s.keeps t s.footMac

theorem State.MacFrame.refl (s : State) : s.MacFrame s := ⟨⟨s.ram, s.draws, rfl⟩, .refl s _⟩

theorem State.MacFrame.trans (h : s.MacFrame t) (g : t.MacFrame u) : s.MacFrame u := by
  obtain ⟨⟨_, _, rfl⟩, hkeeps⟩ := h
  obtain ⟨⟨r, d, rfl⟩, gkeeps⟩ := g
  exact ⟨⟨r, d, rfl⟩, hkeeps.trans_same gkeeps⟩

theorem State.MacFrame.regs (h : s.MacFrame t) : t.regB = s.regB ∧ t.regC = s.regC := by
  obtain ⟨⟨_, _, rfl⟩, -⟩ := h
  exact ⟨rfl, rfl⟩

theorem State.MacFrame.setAxde (s : State) (v : BitVec 32) : s.MacFrame (s.setAxde v) :=
  ⟨⟨_, _, rfl⟩, (s.keeps_setAxde v).mono (fun _ => List.mem_append_left _) fun _ => List.mem_append_left _⟩

theorem State.MacFrame.setB (s : State) (v : Byte) : s.MacFrame (s.setR8 s.regB v) :=
  ⟨⟨_, _, rfl⟩, (s.keeps_setR8 s.regB v).mono (fun _ h => List.mem_append_right _ (List.mem_append_left _ h))
    fun _ h => List.mem_append_right _ (List.mem_append_left _ h)⟩

theorem State.MacFrame.setC (s : State) (v : Byte) : s.MacFrame (s.setR8 s.regC v) :=
  ⟨⟨_, _, rfl⟩, (s.keeps_setR8 s.regC v).mono (fun _ h => List.mem_append_right _ (List.mem_append_right _ h))
    fun _ h => List.mem_append_right _ (List.mem_append_right _ h)⟩

theorem State.MacFrame.draw (s : State) : s.MacFrame { s with draws := s.draws + 1 } :=
  ⟨⟨_, _, rfl⟩, s.keeps_setRest _ _ _ _⟩

theorem State.macNext_frame (s : State) : s.MacFrame s.macNext :=
  ((State.MacFrame.setAxde s _).trans (.setB s.macAdded _)).trans (.setC s.macMovedB _)

theorem State.macOverflowed_frame (s : State) (saturate : Bool) : s.MacFrame (s.macOverflowed saturate) := by
  cases saturate with
  | true => exact .setAxde s _
  | false => exact (State.MacFrame.draw s).trans (.setAxde _ _)

theorem State.macNext_wf (h : s.ram.wf = true) : s.macNext.ram.wf = true :=
  State.setRam8_wf _ _ (State.setRam8_wf _ _ (State.setAxde_wf _ h))

/-! ## B, C and AXDE after a pass -/

theorem State.b_setAxde (s : State) (v : BitVec 32) : (s.setAxde v).r8 s.regB = s.r8 s.regB :=
  State.r8_setAxde_other v s.regB_pair_ne.1 (s.regB_pair_ne.2 .tde)

theorem State.c_setAxde (s : State) (v : BitVec 32) : (s.setAxde v).r8 s.regC = s.r8 s.regC :=
  State.r8_setAxde_other v s.regC_pair_ne.1 (s.regC_pair_ne.2 .tde)

theorem State.macNext_b (h : s.ram.wf = true) : s.macNext.r8 s.macNext.regB = s.r8 s.regB + 2 :=
  calc s.macNext.r8 s.regB = s.macMovedB.r8 s.regB := State.r8_setR8_other (s := s.macMovedB) _ s.regB_ne_regC
    _ = s.macAdded.r8 s.regB + 2 := State.r8_setR8 (s := s.macAdded) _ _ (State.setAxde_wf _ h)
    _ = s.r8 s.regB + 2 := congrArg (· + 2) (s.b_setAxde _)

theorem State.macNext_c (h : s.ram.wf = true) : s.macNext.r8 s.macNext.regC = s.r8 s.regC + 2 :=
  calc s.macNext.r8 s.regC = s.macMovedB.r8 s.regC + 2 :=
        State.r8_setR8 _ _ (State.setRam8_wf _ _ (State.setAxde_wf _ h))
    _ = s.macAdded.r8 s.regC + 2 := congrArg (· + 2) (State.r8_setR8_other _ s.regB_ne_regC.symm)
    _ = s.r8 s.regC + 2 := congrArg (· + 2) (s.c_setAxde _)

theorem State.macNext_axde (h : s.ram.wf = true) : s.macNext.axde = BitVec.ofInt 32 s.macSum :=
  calc s.macNext.axde = s.macMovedB.axde := State.axde_setR8_other _ s.regC_pair_ne.1 (s.regC_pair_ne.2 .tde)
    _ = s.macAdded.axde := State.axde_setR8_other _ s.regB_pair_ne.1 (s.regB_pair_ne.2 .tde)
    _ = BitVec.ofInt 32 s.macSum := State.axde_setAxde _ h

/-- A sum that fits is what AXDE holds after the pass. -/
theorem State.macNext_axde_toInt (h : s.ram.wf = true) (fits : ¬s.MacOverflows) :
    s.macNext.axde.toInt = s.macSum := by
  obtain ⟨hhi, hlo⟩ := not_or.mp fits
  rw [State.macNext_axde h, BitVec.toInt_ofInt_eq_self (by decide) (by omega) (by omega)]

theorem State.macOverflowed_b (s : State) (saturate : Bool) :
    (s.macOverflowed saturate).r8 s.regB = s.r8 s.regB := by
  cases saturate with
  | true => exact s.b_setAxde _
  | false => exact State.b_setAxde { s with draws := s.draws + 1 } _

theorem State.macOverflowed_c (s : State) (saturate : Bool) :
    (s.macOverflowed saturate).r8 s.regC = s.r8 s.regC := by
  cases saturate with
  | true => exact s.c_setAxde _
  | false => exact State.c_setAxde { s with draws := s.draws + 1 } _

/-! ## The whole instruction -/

/-- The flags after the last pass: P/V the overflow, S, Z, AC, CY undefined (U6). -/
def State.macFlagged (t : State) (overflowed : Bool) : State :=
  let v := Config.undef t.draws
  { t with
    psw := { t.psw with s := v.getLsbD 0, z := v.getLsbD 1, ac := v.getLsbD 2, pv := overflowed, cy := v.getLsbD 3 }
    draws := t.draws + 1 }

/-- MACW and MACSW are one action that differs in `saturate`. -/
theorem exec_mac {i : Instr} {c : Byte} (hi : i ∈ [Instr.macw c, .macsw c]) :
    ∃ saturate, ∀ s, exec i s = run (mac saturate c) s := by
  simp only [List.mem_cons, List.not_mem_nil, or_false] at hi
  rcases hi with rfl | rfl
  · exact ⟨false, fun _ => rfl⟩
  · exact ⟨true, fun _ => rfl⟩

section Mac

variable {saturate overflowed : Bool} {c : Byte}

theorem run_mac_of (h : macLoop saturate (passes c) s = .ok (overflowed, t)) :
    run (mac saturate c) s = .next (t.macFlagged overflowed) := run_bind_of _ h

theorem run_mac_refused (h : macLoop saturate (passes c) s = .error (.refused .macStraddle)) :
    run (mac saturate c) s = .refused .macStraddle := by
  rw [run, mac, bind_apply, h]

/-- At least one pass is run (D10). -/
theorem passes_pos (c : Byte) : ∃ n, passes c = n + 1 := by
  refine Nat.exists_eq_succ_of_ne_zero ?_
  unfold passes
  split
  · decide
  next h => exact fun hzero => h (BitVec.eq_of_toNat_eq hzero)

end Mac

/-! ## Where the passes complete -/

/-- No pass of the coming `n` finds a pointer at the end of the page. -/
def State.MacPointersFit (s : State) (n : Nat) : Prop :=
  ∀ k < n, ((s.r8 s.regB).toNat + 2 * k) % 256 ≠ 0xFF ∧ ((s.r8 s.regC).toNat + 2 * k) % 256 ≠ 0xFF

theorem State.MacPointersFit.first {n : Nat} (h : s.MacPointersFit (n + 1)) :
    s.r8 s.regB ≠ 0xFF#8 ∧ s.r8 s.regC ≠ 0xFF#8 := by
  obtain ⟨hB, hC⟩ := h 0 n.succ_pos
  constructor <;> bv_omega

theorem pointer_add_two (p : Byte) : (p + 2).toNat = (p.toNat + 2) % 256 := BitVec.toNat_add p 2

/-- A pointer moved on is one pass further. -/
theorem pointer_next (p : Byte) (k : Nat) : ((p + 2).toNat + 2 * k) % 256 = (p.toNat + 2 * (k + 1)) % 256 := by
  rw [pointer_add_two]
  omega

theorem State.MacPointersFit.macNext {n : Nat} (h : s.MacPointersFit (n + 1)) (hwf : s.ram.wf = true) :
    s.macNext.MacPointersFit n := by
  intro k hk
  rw [State.macNext_b hwf, State.macNext_c hwf, pointer_next, pointer_next]
  exact h (k + 1) (Nat.succ_lt_succ hk)

theorem macLoop_completes (saturate : Bool) {n : Nat} (hwf : s.ram.wf = true) (fit : s.MacPointersFit n) :
    ∃ overflowed t, macLoop saturate n s = .ok (overflowed, t) ∧ s.MacFrame t := by
  induction n generalizing s with
  | zero => exact ⟨false, s, macLoop_zero saturate s, .refl s⟩
  | succ n ih =>
    obtain ⟨hB, hC⟩ := fit.first
    by_cases h : s.MacOverflows
    · exact ⟨true, _, macLoop_overflow saturate n hB hC h, s.macOverflowed_frame saturate⟩
    · obtain ⟨overflowed, t, hloop, frame⟩ := ih (State.macNext_wf hwf) (fit.macNext hwf)
      exact ⟨overflowed, t, (macLoop_next saturate n hB hC h).trans hloop, s.macNext_frame.trans frame⟩

theorem State.MacFrame.flagged (h : s.MacFrame t) (overflowed : Bool) :
    s.sameControl (t.macFlagged overflowed) ∧ (t.macFlagged overflowed).io = s.io ∧
      (t.macFlagged overflowed).psw.ie = s.psw.ie ∧ (t.macFlagged overflowed).psw.rss = s.psw.rss ∧
      (t.macFlagged overflowed).psw.uf = s.psw.uf ∧ (t.macFlagged overflowed).psw.rbs = s.psw.rbs ∧
      s.keeps (t.macFlagged overflowed) s.footMac := by
  obtain ⟨⟨r, d, rfl⟩, hkeeps⟩ := h
  exact ⟨rfl, rfl, rfl, rfl, rfl, rfl, hkeeps.trans_same (State.keeps_setRest _ _ _ _ _)⟩

/-- The first sum of the statements is that of the first pass. -/
theorem State.macSum_eq_products (s : State) :
    s.macSum = s.axde.toInt + s.products (s.r8 s.regB).toNat (s.r8 s.regC).toNat 1 := by
  simp only [State.macSum, State.products, Nat.mul_zero, Nat.add_zero, Int.zero_add,
    Nat.mod_eq_of_lt (BitVec.isLt _ : _ < 2 ^ 8)]

/-- Settles O27: by induction on the passes they complete or overflow; the first pass alone decides the refusal and the
overflow. -/
theorem macStops : Obligations.MacStops := by
  refine ⟨fun s c hinv => ⟨fun fit i hi => ?completes, fun straddles i hi => ?refused⟩, fun s c hinv hB hC => ?_⟩
  case completes =>
    obtain ⟨saturate, hexec⟩ := exec_mac hi
    obtain ⟨overflowed, t, hloop, frame⟩ := macLoop_completes saturate hinv.ramForm (n := passes c) fit
    exact ⟨_, (hexec s).trans (run_mac_of hloop), frame.flagged overflowed⟩
  case refused =>
    obtain ⟨saturate, hexec⟩ := exec_mac hi
    obtain ⟨n, hn⟩ := passes_pos c
    have atEnd : s.r8 s.regB = 0xFF#8 ∨ s.r8 s.regC = 0xFF#8 :=
      straddles.imp (BitVec.eq_of_toNat_eq ·) (BitVec.eq_of_toNat_eq ·)
    exact (hexec s).trans (run_mac_refused (hn ▸ macLoop_straddle saturate n atEnd))
  rw [← State.macSum_eq_products]
  intro sum out
  obtain ⟨n, hn⟩ := passes_pos c
  have overflow : s.MacOverflows := by
    unfold State.MacOverflows
    omega
  refine ⟨fun i hi => ?overflows, fun t ht => ?limit⟩
  case overflows =>
    obtain ⟨saturate, hexec⟩ := exec_mac hi
    exact ⟨_, (hexec s).trans (run_mac_of (hn ▸ macLoop_overflow saturate n hB hC overflow)), rfl,
      s.macOverflowed_b saturate, s.macOverflowed_c saturate⟩
  case limit =>
    have hexec : exec (.macsw c) s = .next ((s.macOverflowed true).macFlagged true) :=
      run_mac_of (hn ▸ macLoop_overflow true n hB hC overflow)
    obtain rfl : (s.macOverflowed true).macFlagged true = t := by
      rw [hexec] at ht
      exact Host.Outcome.next.inj ht
    have sign : 0 < s.macSum ↔ 2 ^ 31 ≤ sum := by omega
    refine (State.axde_setAxde _ hinv.ramForm).trans ?_
    simp only [sign]

/-! ## The state after a number of passes -/

/-- The state after `k` passes that go on. -/
def State.macAfter (s : State) : Nat → State
  | 0 => s
  | k + 1 => (s.macAfter k).macNext

theorem State.macAfter_succ (s : State) (k : Nat) : s.macAfter (k + 1) = s.macNext.macAfter k := by
  induction k with
  | zero => rfl
  | succ k ih => exact congrArg State.macNext ih

/-- The pass finds both pointers on the page and its sum fits. -/
def State.MacGoesOn (s : State) : Prop := s.r8 s.regB ≠ 0xFF#8 ∧ s.r8 s.regC ≠ 0xFF#8 ∧ ¬s.MacOverflows

/-- Where every pass goes on, the passes are repetitions of one. -/
theorem macLoop_goesOn (saturate : Bool) {n : Nat} (h : ∀ k < n, (s.macAfter k).MacGoesOn) :
    macLoop saturate n s = .ok (false, s.macAfter n) := by
  induction n generalizing s with
  | zero => rfl
  | succ n ih =>
    obtain ⟨hB, hC, fits⟩ := h 0 n.succ_pos
    have later (k : Nat) (hk : k < n) : (s.macNext.macAfter k).MacGoesOn := by
      rw [← State.macAfter_succ]
      exact h (k + 1) (Nat.succ_lt_succ hk)
    rw [State.macAfter_succ]
    exact (macLoop_next saturate n hB hC fits).trans (ih later)

theorem State.macAfter_frame (s : State) (k : Nat) : s.MacFrame (s.macAfter k) := by
  induction k with
  | zero => exact .refl s
  | succ k ih =>
    rw [State.macAfter]
    exact ih.trans (State.macNext_frame _)

section After

variable (hwf : s.ram.wf = true) (k : Nat)
include hwf

theorem State.macAfter_wf : (s.macAfter k).ram.wf = true := by
  induction k with
  | zero => exact hwf
  | succ k ih =>
    rw [State.macAfter]
    exact State.macNext_wf ih

/-- B and C move on by 2 a pass, modulo 256. -/
theorem State.macAfter_pointers :
    ((s.macAfter k).r8 (s.macAfter k).regB).toNat = ((s.r8 s.regB).toNat + 2 * k) % 256 ∧
      ((s.macAfter k).r8 (s.macAfter k).regC).toNat = ((s.r8 s.regC).toNat + 2 * k) % 256 := by
  induction k with
  | zero => exact ⟨(Nat.mod_eq_of_lt (BitVec.isLt _)).symm, (Nat.mod_eq_of_lt (BitVec.isLt _)).symm⟩
  | succ k ih =>
    obtain ⟨hB, hC⟩ := ih
    have hk := State.macAfter_wf hwf k
    rw [State.macAfter, State.macNext_b hk, State.macNext_c hk, pointer_add_two, pointer_add_two, hB, hC]
    constructor <;> omega

end After

/-! ## The words the tables hold -/

/-- The registers a sum of products changes, byte by byte. -/
def State.macRegs (s : State) : List R8 := [s.regA, s.regX, s.regB, s.regC, .r12, .r13]

theorem State.mem_footMac {a : Long} (h : a ∈ s.footMac.bytes) :
    ∃ q ∈ s.macRegs, s.ramAddr (regKey s.psw.rbs q) = a := by
  have keyX : pairKey s.psw.rbs s.pairAX = regKey s.psw.rbs s.regX := by rw [State.pairKey_pairAX, State.regKey_regX]
  have keyA : pairKey s.psw.rbs s.pairAX + 1 = regKey s.psw.rbs s.regA := by
    rw [State.pairKey_pairAX, State.regKey_regA]
  have bytes : s.footMac.bytes =
      [s.regX, s.regA, .r12, .r13, s.regB, s.regC].map fun q => s.ramAddr (regKey s.psw.rbs q) := by
    rw [State.footMac, Footprint.and, Footprint.and, State.footRp, State.footRpOf, keyA, keyX]
    rfl
  obtain ⟨q, hq, rfl⟩ := List.mem_map.mp (bytes ▸ h)
  have order : [s.regX, s.regA, .r12, .r13, s.regB, s.regC] ⊆ s.macRegs := by simp [State.macRegs]
  exact ⟨q, order hq, rfl⟩

/-- The byte at `0FE00H + p` and the next are none of the registers a sum of products changes. -/
def State.MacApart (s : State) (p : Nat) : Prop :=
  ∀ q ∈ s.macRegs, regKey s.psw.rbs q ≠ 0xFE00 + p ∧ regKey s.psw.rbs q ≠ 0xFE00 + p + 1

theorem State.MacFrame.ram8 {j : Nat} (h : s.MacFrame t) (hlo : 0xFD00 ≤ j) (hhi : j < 0xFF00)
    (apart : ∀ q ∈ s.macRegs, regKey s.psw.rbs q ≠ j) : t.ram8 j = s.ram8 j := by
  have outside : s.ramAddr j ∉ s.footMac.bytes := by
    intro hmem
    obtain ⟨q, hq, haddr⟩ := State.mem_footMac hmem
    have hrange := regKey_range s.psw.rbs q
    have hnat := congrArg BitVec.toNat haddr
    rw [State.ramAddr_toNat (by omega), State.ramAddr_toNat (by omega)] at hnat
    exact apart q hq (Nat.add_left_cancel hnat)
  have kept := h.2.1 _ outside
  obtain ⟨⟨r, d, rfl⟩, -⟩ := h
  have read : (State.peek { s with ram := r, draws := d } (s.ramAddr j)) = some (Memory.read r j) :=
    State.peek_ramAddr (s := { s with ram := r, draws := d }) hlo hhi
  rw [read, State.peek_ramAddr hlo hhi] at kept
  exact Option.some.inj kept

theorem State.MacFrame.ram16 {p : Nat} (h : s.MacFrame t) (hp : p < 0xFF) (apart : s.MacApart p) :
    t.ram16 (0xFE00 + p) = s.ram16 (0xFE00 + p) :=
  append_congr (h.ram8 (by omega) (by omega) fun q hq => (apart q hq).2)
    (h.ram8 (by omega) (by omega) fun q hq => (apart q hq).1)

/-- The words of pass `k`: the first ones are read before anything is written. -/
theorem State.macAfter_ram16 {k p : Nat} (hp : p < 0xFF) (apart : 1 ≤ k → s.MacApart p) :
    (s.macAfter k).ram16 (0xFE00 + p) = s.ram16 (0xFE00 + p) := by
  cases k with
  | zero => rfl
  | succ k => exact (s.macAfter_frame (k + 1)).ram16 hp (apart k.succ_pos)

/-! ## The sum of the products -/

/-- AXDE with the first `k` products added, as a whole number (R480). -/
def State.macTotal (s : State) (k : Nat) : Int :=
  s.axde.toInt + s.products (s.r8 s.regB).toNat (s.r8 s.regC).toNat k

section Sum

variable {n : Nat} (hwf : s.ram.wf = true) (fit : s.MacPointersFit n)
  (apart : ∀ k < n, 1 ≤ k → s.MacApart (((s.r8 s.regB).toNat + 2 * k) % 256) ∧
    s.MacApart (((s.r8 s.regC).toNat + 2 * k) % 256))
include hwf fit apart

/-- Pass `k` adds the product of words `k`. -/
theorem State.macSum_macAfter {k : Nat} (hk : k < n) (total : (s.macAfter k).axde.toInt = s.macTotal k) :
    (s.macAfter k).macSum = s.macTotal (k + 1) := by
  obtain ⟨hB, hC⟩ := State.macAfter_pointers hwf k
  obtain ⟨fitB, fitC⟩ := fit k hk
  rw [State.macSum, hB, hC, State.macAfter_ram16 (by omega) fun h => (apart k hk h).1,
    State.macAfter_ram16 (by omega) fun h => (apart k hk h).2, total, State.macTotal, State.macTotal,
    State.products, Int.add_assoc]

variable (range : ∀ k ≤ n, -(2 ^ 31 : Int) ≤ s.macTotal k ∧ s.macTotal k < 2 ^ 31)
include range

theorem State.not_macOverflows_macAfter {k : Nat} (hk : k < n)
    (total : (s.macAfter k).axde.toInt = s.macTotal k) : ¬(s.macAfter k).MacOverflows := by
  obtain ⟨least, greatest⟩ := range (k + 1) hk
  rw [State.MacOverflows, State.macSum_macAfter hwf fit apart hk total]
  omega

theorem State.macAfter_axde {k : Nat} (hk : k ≤ n) : (s.macAfter k).axde.toInt = s.macTotal k := by
  induction k with
  | zero => exact (Int.add_zero _).symm
  | succ k ih =>
    have total := ih (Nat.le_of_succ_le hk)
    have fits := State.not_macOverflows_macAfter hwf fit apart range hk total
    rw [State.macAfter, State.macNext_axde_toInt (State.macAfter_wf hwf k) fits,
      State.macSum_macAfter hwf fit apart hk total]

theorem State.macAfter_goesOn {k : Nat} (hk : k < n) : (s.macAfter k).MacGoesOn := by
  obtain ⟨hB, hC⟩ := State.macAfter_pointers hwf k
  obtain ⟨fitB, fitC⟩ := fit k hk
  have total := State.macAfter_axde hwf fit apart range (Nat.le_of_lt hk)
  refine ⟨fun h => fitB ?_, fun h => fitC ?_, State.not_macOverflows_macAfter hwf fit apart range hk total⟩
  · rw [← hB, h]
    rfl
  · rw [← hC, h]
    rfl

end Sum

/-- Settles O28: every pass goes on, so the run is that pass repeated, after which AXDE, B and C are known by
induction. -/
theorem macSum : Obligations.MacSum := by
  intro s c hinv n pb pc _ fit apart range i hi
  obtain ⟨saturate, hexec⟩ := exec_mac hi
  have hwf := hinv.ramForm
  have hloop : macLoop saturate n s = .ok (false, s.macAfter n) :=
    macLoop_goesOn saturate fun k hk => State.macAfter_goesOn hwf fit apart range hk
  obtain ⟨hB, hC⟩ := State.macAfter_pointers hwf n
  obtain ⟨regB, regC⟩ := (s.macAfter_frame n).regs
  rw [regB] at hB
  rw [regC] at hC
  exact ⟨_, (hexec s).trans (run_mac_of hloop), State.macAfter_axde hwf fit apart range (Nat.le_refl n), rfl, hB, hC⟩

end Sys2Proof.Machine
end

section
/-! SACW (O29; 45_muldiv_mac R482): one pass is two reads, the sum and its flags, the two pointers moved, the counter
unless there was a carry, and the pc. -/

namespace Sys2Proof.Machine

variable {s u m : State}

/-! ## The parts of a pass -/

/-- How far two unsigned words are apart (D11). -/
def wordDistance (a b : Word) : Nat := if a.toNat ≤ b.toNat then b.toNat - a.toNat else a.toNat - b.toNat

theorem wordDistance_eq (a b : Word) :
    (if a.toNat < b.toNat then b.toNat - a.toNat else a.toNat - b.toNat) = wordDistance a b := by
  unfold wordDistance
  split <;> split <;> omega

/-- The sum written to AX and its carry to CY; S, Z, AC and P/V undefined (U6). -/
def State.sacwAdded (u : State) (sum : Nat) : State :=
  let v := Config.undef u.draws
  { u.setAx (BitVec.ofNat 16 sum) with
    psw := { u.psw with s := v.getLsbD 0, z := v.getLsbD 1, ac := v.getLsbD 2, pv := v.getLsbD 3,
                        cy := decide (0x10000 ≤ sum) }
    draws := u.draws + 1 }

/-- A pointer moved past its word. -/
def State.movedPast (u : State) (g : RG) : State := u.setRg g (u.rg g + 2)

/-- The sum written and both pointers moved. -/
def State.sacwMoved (u : State) (sum : Nat) : State := ((u.sacwAdded sum).movedPast .tde).movedPast .whl

def State.countedC (m : State) : State := m.setR8 m.regC (m.r8 m.regC - 1)

/-- C counted down, unless there was a carry. -/
def State.sacwCounted (m : State) : State := if m.psw.cy then m else m.countedC

/-- The end of a pass: on a carry and where C has come to 0 the instruction is over (R482, D25). -/
def State.sacwEnded (m : State) : State :=
  { m.sacwCounted with pc := if m.psw.cy ∨ m.sacwCounted.r8 m.regC = 0#8 then m.pc else m.pc - 4 }

/-- A whole pass after the reads. -/
def State.sacwDone (u : State) (sum : Nat) : State := (u.sacwMoved sum).sacwEnded

theorem State.sacwEnded_of_carry (h : m.psw.cy = true) : m.sacwEnded = m := by
  rw [State.sacwEnded, State.sacwCounted, if_pos h, if_pos (.inl h)]

theorem State.sacwEnded_of_last (carry : ¬m.psw.cy = true) (last : m.countedC.r8 m.regC = 0#8) :
    m.sacwEnded = m.countedC := by
  rw [State.sacwEnded, State.sacwCounted, if_neg carry, if_pos (.inr last)]
  rfl

theorem State.sacwEnded_of_more (carry : ¬m.psw.cy = true) (more : ¬m.countedC.r8 m.regC = 0#8) :
    m.sacwEnded = m.countedC.again 4 := by
  rw [State.sacwEnded, State.sacwCounted, if_neg carry, if_neg (not_or.mpr ⟨carry, more⟩)]
  rfl

/-- The counter and the pc, last in the pass. -/
theorem run_sacw_end {carry : Bool} (h : m.psw.cy = carry) :
    run (if carry then return ()
      else do
        modify fun t => t.setR8 t.regC (t.r8 t.regC - 1)
        let t ← get
        if t.r8 t.regC = 0x00#8 then return () else modify (·.again 4)) m = .next m.sacwEnded := by
  subst h
  by_cases carry : m.psw.cy = true
  · rw [State.sacwEnded_of_carry carry, if_pos carry]
    rfl
  · rw [if_neg carry, run_bind_of _ (modify_apply _ m), run_bind_of _ (get_apply _)]
    by_cases last : m.countedC.r8 m.regC = 0#8
    · rw [State.sacwEnded_of_last carry last]
      exact congrArg (run · m.countedC) (if_pos last)
    · rw [State.sacwEnded_of_more carry last]
      exact congrArg (run · m.countedC) (if_neg last)

section Reads

variable {p q : Word × State} (hp : s.look16 (s.rg .tde) = p) (hq : p.2.look16 (s.rg .whl) = q)
include hp hq

/-- The two reads change only the record of the host's exchanges. -/
theorem State.sacw_reads_io : ∃ i, q.2 = { s with io := i } := by
  obtain ⟨i, first⟩ := s.look16_io (s.rg .tde)
  obtain ⟨j, second⟩ := State.look16_io { s with io := i } (s.rg .whl)
  exact ⟨j, by rw [← hq, ← hp, first, second]⟩

theorem exec_sacw {d : Nat} (hd : wordDistance p.1 q.1 = d) (readP : s.readableN (s.rg .tde) 2 = true)
    (readQ : s.readableN (s.rg .whl) 2 = true) : exec .sacw s = .next (q.2.sacwDone (s.ax.toNat + d)) := by
  have readQ' : p.2.readableN (s.rg .whl) 2 = true := by
    obtain ⟨i, first⟩ := s.look16_io (s.rg .tde)
    rw [← hp, first]
    exact (State.readableN_congr (s := s) (t := { s with io := i }) rfl rfl _ 2).trans readQ
  have hexec : exec .sacw s = execSacw s := rfl
  rw [hexec, execSacw, run_bind_of _ (get_apply s), run_bind_of _ (readMem16_of readP), hp,
    run_bind_of _ (readMem16_of readQ'), hq]
  simp only [wordDistance_eq, hd]
  rw [run_bind_of _ (modify_apply _ _), run_bind_of _ (draw_apply _), run_bind_of _ (modify_apply _ _),
    run_bind_of _ (modify_apply _ _), run_bind_of _ (modify_apply _ _)]
  exact run_sacw_end (m := q.2.sacwMoved (s.ax.toNat + d)) rfl

end Reads

/-! ## What a pass leaves in the registers -/

section Moved

variable (sum : Nat)

theorem State.sacwMoved_ax (h : u.ram.wf = true) : (u.sacwMoved sum).ax = BitVec.ofNat 16 sum :=
  calc (u.sacwMoved sum).ax = ((u.sacwAdded sum).movedPast .tde).ax := State.ax_setRg .whl _
    _ = (u.sacwAdded sum).ax := State.ax_setRg .tde _
    _ = BitVec.ofNat 16 sum := State.ax_setAx _ h

theorem State.rg_sacwAdded (g : RG) : (u.sacwAdded sum).rg g = u.rg g :=
  calc (u.sacwAdded sum).rg g = (u.setAx (BitVec.ofNat 16 sum)).rg g := rfl
    _ = u.rg g := State.rg_setRp_other _ (u.pairAX_ne_pair g)

theorem State.sacwAdded_wf (h : u.ram.wf = true) : (u.sacwAdded sum).ram.wf = true := State.setRam16_wf _ h

theorem State.movedPast_wf (g : RG) (h : u.ram.wf = true) : (u.movedPast g).ram.wf = true := State.setRam16_wf _ h

theorem State.sacwMoved_tde (h : u.ram.wf = true) : (u.sacwMoved sum).rg .tde = u.rg .tde + 2 :=
  calc (u.sacwMoved sum).rg .tde = ((u.sacwAdded sum).movedPast .tde).rg .tde := State.rg_setRg_other _ (by decide)
    _ = (u.sacwAdded sum).rg .tde + 2 := State.rg_setRg .tde _ (State.sacwAdded_wf sum h)
    _ = u.rg .tde + 2 := congrArg (· + 2) (State.rg_sacwAdded sum .tde)

theorem State.sacwMoved_whl (h : u.ram.wf = true) : (u.sacwMoved sum).rg .whl = u.rg .whl + 2 :=
  calc (u.sacwMoved sum).rg .whl = ((u.sacwAdded sum).movedPast .tde).rg .whl + 2 :=
        State.rg_setRg .whl _ (State.movedPast_wf .tde (State.sacwAdded_wf sum h))
    _ = (u.sacwAdded sum).rg .whl + 2 := congrArg (· + 2) (State.rg_setRg_other _ (by decide))
    _ = u.rg .whl + 2 := congrArg (· + 2) (State.rg_sacwAdded sum .whl)

theorem State.sacwMoved_c (u : State) : (u.sacwMoved sum).r8 u.regC = u.r8 u.regC :=
  calc (u.sacwMoved sum).r8 u.regC = ((u.sacwAdded sum).movedPast .tde).r8 u.regC :=
        State.r8_setRg_other _ (u.regC_pair_ne.2 .whl)
    _ = (u.sacwAdded sum).r8 u.regC := State.r8_setRg_other _ (u.regC_pair_ne.2 .tde)
    _ = u.r8 u.regC := State.r8_setRp_other _ u.regC_pair_ne.1

theorem State.setRg_parts (s : State) (g : RG) (l : Long) : ∃ r e, s.setRg g l = { s with ram := r, vutw := e } :=
  ⟨_, _, rfl⟩

theorem State.sacwAdded_parts (u : State) :
    ∃ r d, u.sacwAdded sum = { u with psw := (u.sacwAdded sum).psw, ram := r, draws := d } := ⟨_, _, rfl⟩

theorem State.sacwMoved_parts (u : State) :
    ∃ r e d, u.sacwMoved sum = { u with psw := (u.sacwAdded sum).psw, ram := r, vutw := e, draws := d } := by
  obtain ⟨r, d, added⟩ := u.sacwAdded_parts sum
  obtain ⟨r', e', tde⟩ := (u.sacwAdded sum).setRg_parts .tde ((u.sacwAdded sum).rg .tde + 2)
  obtain ⟨r'', e'', whl⟩ := ((u.sacwAdded sum).movedPast .tde).setRg_parts .whl
    (((u.sacwAdded sum).movedPast .tde).rg .whl + 2)
  exact ⟨r'', e'', d, by
    rw [State.sacwMoved, State.movedPast, whl, State.movedPast, tde]
    rw [added]⟩

theorem State.keeps_sacwMoved (u : State) :
    u.keeps (u.sacwMoved sum) (((u.footRp u.pairAX).and (u.footRg .tde)).and (u.footRg .whl)) := by
  have added : u.keeps (u.sacwAdded sum) (u.footRp u.pairAX) :=
    (u.keeps_setAx _).trans_same (State.keeps_setRest _ _ _ _ _)
  exact (added.trans (State.keeps_setRg _ .tde _)).trans (State.keeps_setRg _ .whl _)

end Moved

/-! ## What the end of a pass leaves -/

section Ended

variable (m : State)

theorem State.sacwEnded_ax : m.sacwEnded.ax = m.ax := by
  show m.sacwCounted.ax = m.ax
  unfold State.sacwCounted
  split
  · rfl
  · exact State.rp_setR8_other _ m.regC_pair_ne.1

theorem State.sacwEnded_rg (g : RG) : m.sacwEnded.rg g = m.rg g := by
  show m.sacwCounted.rg g = m.rg g
  unfold State.sacwCounted
  split
  · rfl
  · exact State.rg_setR8_other _ (m.regC_pair_ne.2 g)

theorem State.sacwEnded_c (h : m.ram.wf = true) :
    m.sacwEnded.r8 m.regC = if m.psw.cy then m.r8 m.regC else m.r8 m.regC - 1 := by
  show m.sacwCounted.r8 m.regC = _
  unfold State.sacwCounted
  split
  · rfl
  · exact State.r8_setR8 m.regC _ h

/-- The counter changes RAM only. -/
theorem State.sacwEnded_parts : ∃ r x, m.sacwEnded = { m with ram := r, pc := x } := by
  unfold State.sacwEnded State.sacwCounted
  split <;> exact ⟨_, _, rfl⟩

theorem State.sacwEnded_psw : m.sacwEnded.psw = m.psw := by
  obtain ⟨r, x, h⟩ := m.sacwEnded_parts
  rw [h]

theorem State.sacwEnded_pc :
    m.sacwEnded.pc = if m.psw.cy ∨ m.sacwEnded.r8 m.regC = 0#8 then m.pc else m.pc - 4 := by
  have hc : m.sacwEnded.r8 m.regC = m.sacwCounted.r8 m.regC := rfl
  rw [hc, State.sacwEnded]

theorem State.keeps_sacwEnded : m.keeps m.sacwEnded (m.footR8 m.regC) := by
  have counted : m.keeps m.sacwCounted (m.footR8 m.regC) := by
    unfold State.sacwCounted
    split
    · exact .refl m _
    · exact m.keeps_setR8 _ _
  exact counted.trans_same (State.keeps_setRest _ _ _ _ _)

end Ended

/-! ## The whole pass -/

section Done

variable (sum : Nat)

theorem State.sacwDone_ax (h : u.ram.wf = true) : (u.sacwDone sum).ax = BitVec.ofNat 16 sum :=
  (State.sacwEnded_ax _).trans (State.sacwMoved_ax sum h)

theorem State.sacwDone_tde (h : u.ram.wf = true) : (u.sacwDone sum).rg .tde = u.rg .tde + 2 :=
  (State.sacwEnded_rg _ .tde).trans (State.sacwMoved_tde sum h)

theorem State.sacwDone_whl (h : u.ram.wf = true) : (u.sacwDone sum).rg .whl = u.rg .whl + 2 :=
  (State.sacwEnded_rg _ .whl).trans (State.sacwMoved_whl sum h)

theorem State.sacwDone_psw (u : State) : (u.sacwDone sum).psw = (u.sacwAdded sum).psw := State.sacwEnded_psw _

theorem State.sacwDone_cy (u : State) : (u.sacwDone sum).psw.cy = decide (2 ^ 16 ≤ sum) := by
  rw [State.sacwDone_psw]
  rfl

theorem State.sacwDone_c (h : u.ram.wf = true) :
    (u.sacwDone sum).r8 u.regC = if (u.sacwDone sum).psw.cy then u.r8 u.regC else u.r8 u.regC - 1 := by
  have ended := State.sacwEnded_c (u.sacwMoved sum)
    (State.movedPast_wf .whl (State.movedPast_wf .tde (State.sacwAdded_wf sum h)))
  have kept : (u.sacwMoved sum).r8 (u.sacwMoved sum).regC = u.r8 u.regC := u.sacwMoved_c sum
  rw [kept, ← State.sacwEnded_psw] at ended
  exact ended

theorem State.sacwDone_pc (u : State) : (u.sacwDone sum).pc =
    if (u.sacwDone sum).psw.cy ∨ (u.sacwDone sum).r8 u.regC = 0#8 then u.pc else u.pc - 4 := by
  have ended := State.sacwEnded_pc (u.sacwMoved sum)
  rw [← State.sacwEnded_psw] at ended
  exact ended

theorem State.sacwDone_parts (u : State) :
    ∃ x r e d, u.sacwDone sum =
      { u with psw := (u.sacwAdded sum).psw, ram := r, vutw := e, draws := d, pc := x } := by
  obtain ⟨r, x, ended⟩ := (u.sacwMoved sum).sacwEnded_parts
  obtain ⟨r', e, d, moved⟩ := u.sacwMoved_parts sum
  exact ⟨x, r, e, d, by rw [State.sacwDone, ended, moved]⟩

/-- The registers a pass changes: AX, the two pointers and C. -/
def State.footSacw (s : State) : Footprint :=
  ((s.footRp s.pairAX).and (s.footRg .tde)).and ((s.footRg .whl).and (s.footR8 s.regC))

theorem State.keeps_sacwDone (u : State) : u.keeps (u.sacwDone sum) u.footSacw := by
  have pass := (u.keeps_sacwMoved sum).trans (State.keeps_sacwEnded (u.sacwMoved sum))
  rw [Footprint.and_assoc] at pass
  exact pass

theorem State.keeps_sacwDone_of_io (s : State) (i : List IoEvent) :
    s.keeps (State.sacwDone { s with io := i } sum) s.footSacw := by
  have reads : s.keeps { s with io := i } s.footSacw := by
    refine State.keeps_of_same (s := s) ⟨?_, ?_⟩ ?_ ?_ ?_ _ <;> rfl
  have foot : State.footSacw { s with io := i } = s.footSacw := rfl
  have pass := State.keeps_sacwDone sum { s with io := i }
  rw [foot] at pass
  exact reads.trans_same pass

end Done

/-- Settles O29: the reads leave all but the record of the host's exchanges; then the parts of the pass. -/
theorem sacwPass : Obligations.SacwPass := by
  intro s hinv readP readQ p q d
  have hp : s.look16 (s.rg .tde) = p := rfl
  have hq : p.2.look16 (s.rg .whl) = q := rfl
  have hd : wordDistance p.1 q.1 = d := rfl
  clear_value d q p
  have hexec := exec_sacw hp hq hd readP readQ
  obtain ⟨i, hu⟩ := State.sacw_reads_io hp hq
  generalize q.2 = u at hu hexec ⊢
  subst hu
  have hwf : ({ s with io := i } : State).ram.wf = true := hinv.ramForm
  refine ⟨_, hexec, ?ax, ?carry, ?tde, ?whl, ?c, ?pc, ?io, ?control, ?psw, ?keeps⟩
  case ax => rw [State.sacwDone_ax _ hwf, BitVec.toNat_ofNat]
  case carry => rw [State.sacwDone_cy, decide_eq_true_iff]
  case tde => exact State.sacwDone_tde _ hwf
  case whl => exact State.sacwDone_whl _ hwf
  case c => exact State.sacwDone_c _ hwf
  case pc => exact State.sacwDone_pc (s.ax.toNat + d) { s with io := i }
  case keeps => exact s.keeps_sacwDone_of_io _ i
  all_goals
    obtain ⟨x, r, e, n, h⟩ := State.sacwDone_parts (s.ax.toNat + d) { s with io := i }
    rw [h]
  case control => rfl
  case psw => rfl

end Sys2Proof.Machine
end

section
/-! INC, DEC, INCW, DECW, INCG, DECG, ADDWG, SUBWG (O30, O31; 46_incdec_adjust R500 to R505, 49_stack R623 to R626): one
operand is read, changed and written back; INC and DEC write their flags before the operand, the others write none. -/

namespace Sys2Proof.Machine

/-! ## INC and DEC -/

/-- No form of INC and DEC has a pointer in memory. -/
theorem incForm_direct {o : Op8} (h : incForm o = true) : o.direct := by
  cases o with
  | r n => trivial
  | saddr x => trivial
  | _ => exact absurd h Bool.false_ne_true

/-- The operand read and the flags of `r` written, CY as it was, before the operand is written. -/
def State.flaggedIncDec (s : State) (l : Loc8) (r : Arith 8) : State :=
  { (l.look s).2 with psw := s.psw.withIncDec r }

/-- The operand read, the flags of `r` written, then its result. -/
def State.incDecDone (s : State) (l : Loc8) (r : Arith 8) : State := l.store r.res (s.flaggedIncDec l r)

section IncDec

variable (s : State) (l : Loc8) (r : Arith 8)

theorem setIncDec_look : setIncDec r (l.look s).2 = .ok ((), s.flaggedIncDec l r) := by
  obtain ⟨i, d, h⟩ := l.look_parts s
  rw [setIncDec, modify_apply, State.flaggedIncDec, h]

theorem State.flaggedIncDec_dataOf : s.DataOf (s.flaggedIncDec l r) := by
  obtain ⟨i, d, h⟩ := l.look_parts s
  exact ⟨_, _, _, _, i, d, by rw [State.flaggedIncDec, h]⟩

theorem State.keeps_flaggedIncDec : s.keeps (s.flaggedIncDec l r) Footprint.nothing :=
  (State.keeps_look l s _).trans_same (State.keeps_setRest _ _ _ _ _)

theorem State.incDecDone_dataOf : s.DataOf (s.incDecDone l r) :=
  (s.flaggedIncDec_dataOf l r).trans (l.store_dataOf _ _)

variable {l}

theorem State.keeps_incDecDone (hl : l.inArea) : s.keeps (s.incDecDone l r) (s.footLoc8 l) :=
  (s.keeps_flaggedIncDec l r).trans (State.keeps_store8_of_sameMap hl r.res (s.flaggedIncDec_dataOf l r).sameMap)

end IncDec

/-- Where the operand can be used the instruction completes. -/
theorem run_incDec8_of {s : State} {o : Op8} (h : o.direct) (readO : s.reads8 o = true) (writeO : s.writes8 o = true)
    (f : Byte → Arith 8) :
    let l := (s.locate8 o).1
    run (incDec8 f o) s = .next (s.incDecDone l (f (l.look s).1)) := by
  intro l
  obtain ⟨pointer, readable⟩ := Bool.and_eq_true_iff.mp readO
  obtain ⟨-, writable⟩ := Bool.and_eq_true_iff.mp writeO
  have writableThen (r : Arith 8) : l.writable (s.flaggedIncDec l r) = true :=
    (Loc8.writable_congr (s.flaggedIncDec_dataOf l r).sameMap l).trans writable
  rw [incDec8, run_bind_of _ (loc8_of pointer), s.locate8_direct h, run_bind_of _ (read8_of readable),
    run_bind_of _ (setIncDec_look s l _), run_of_ok (write8_of _ (writableThen _))]
  rfl

/-- Settles O30: both are one action with two functions; its control state and frame by the parts of the change. -/
theorem incDecByte : Obligations.IncDecByte := by
  intro o s h readO writeO l v
  have completes (i : Instr) (f : Byte → Arith 8) (hexec : exec i s = run (incDec8 f o) s) :
      ∃ t, exec i s = .next t ∧
        t = l.store (f v.1).res { v.2 with psw := { s.psw with
          s := (f v.1).s, z := (f v.1).z, ac := (f v.1).ac, pv := (f v.1).v } } ∧
        s.sameControl t ∧ s.keeps t (s.footLoc8 l) :=
    ⟨_, hexec.trans (run_incDec8_of (incForm_direct h) readO writeO f), rfl,
      (s.incDecDone_dataOf l _).sameControl, s.keeps_incDecDone _ (s.locate8_inArea o)⟩
  simp only [List.forall_mem_cons, List.not_mem_nil, false_imp_iff, implies_true, and_true]
  exact ⟨completes (.inc o) (fun v => addN v 1#8 false) rfl, completes (.dec o) (fun v => subN v 1#8 false) rfl⟩

/-! ## INCW and DECW -/

/-- No form of INCW and DECW has a pointer in memory. -/
theorem incwForm_direct {o : Op16} (h : incwForm o = true) : o.direct := by
  cases o with
  | rp n => trivial
  | saddr x => trivial
  | _ => exact absurd h Bool.false_ne_true

/-- No form of INCW and DECW is an sfr operand, and so none reaches the PSW. -/
theorem incwForm_not_pswSfr {o : Op16} (h : incwForm o = true) (s : State) (x : Byte) :
    (s.locate16 o).1 ≠ .pswSfr x := by
  cases o with
  | rp n => exact Loc16.noConfusion
  | saddr x => exact Loc16.noConfusion
  | _ => exact absurd h Bool.false_ne_true

/-- The operand read and `w` written back. -/
def State.changed16 (s : State) (l : Loc16) (w : Word) : State := l.store w (l.look s).2

section Changed16

variable (s : State) {l : Loc16} (w : Word)

theorem Loc16.keeps_look (l : Loc16) (s : State) (f : Footprint) : s.keeps (l.look s).2 f := by
  obtain ⟨i, d, h⟩ := l.look_parts s
  rw [h]
  exact State.keeps_of_same ⟨rfl, rfl⟩ rfl rfl rfl f

theorem State.changed16_dataOf : s.DataOf (s.changed16 l w) := (l.look_dataOf s).trans (l.store_dataOf w _)

theorem State.changed16_psw (hl : ∀ o, l ≠ .pswSfr o) : (s.changed16 l w).psw = s.psw := by
  obtain ⟨i, d, h⟩ := l.look_parts s
  rw [State.changed16, Loc16.store_psw hl, h]

theorem State.keeps_changed16 (hl : l.InRegs) : s.keeps (s.changed16 l w) (s.footLoc16 l) :=
  (l.keeps_look s Footprint.nothing).trans (State.keeps_storeLoc16_of_sameMap hl w (l.look_dataOf s).sameMap)

end Changed16

/-- Where the operand can be used the instruction completes. -/
theorem run_change16_of {s : State} {o : Op16} (h : o.direct) (readO : s.reads16 o = true)
    (writeO : s.writes16 o = true) (f : Word → Word) :
    let l := (s.locate16 o).1
    run (change16 f o) s = .next (s.changed16 l (f (l.look s).1)) := by
  intro l
  obtain ⟨pointer, readable⟩ := Bool.and_eq_true_iff.mp readO
  obtain ⟨-, writable⟩ := Bool.and_eq_true_iff.mp writeO
  have writableThen : l.writable (l.look s).2 = true :=
    (Loc16.writable_congr (l.look_dataOf s).sameMap l).trans writable
  rw [change16, run_bind_of _ (loc16_of pointer), s.locate16_direct h, run_bind_of _ (read16_of readable),
    run_of_ok (write16_of _ writableThen)]
  rfl

/-! ## INCG and DECG: a 24-bit register and SP are always readable and writable -/

theorem run_change24_rg (f : Long → Long) (g : RG) (s : State) :
    run (change24 f (.rg g)) s = .next (s.setRg g (f (s.rg g))) := rfl

theorem run_change24_sp (f : Long → Long) (s : State) :
    run (change24 f .sp) s = .next { s with sp := f s.sp &&& s.cfg.spMask } := rfl

/-! ## ADDWG and SUBWG -/

theorem add_zeroExtended (a : Long) (w : Word) : a + w.setWidth 24 = BitVec.ofNat 24 (a.toNat + w.toNat) := by
  rw [BitVec.ofNat_add, BitVec.ofNat_toNat, BitVec.setWidth_eq, BitVec.ofNat_toNat]

theorem sub_zeroExtended (a : Long) (w : Word) : a - w.setWidth 24 = BitVec.ofInt 24 (a.toNat - w.toNat) := by
  have word {n : Nat} (x : BitVec n) : BitVec.ofInt 24 x.toNat = x.setWidth 24 := by
    rw [BitVec.ofInt_natCast, BitVec.ofNat_toNat]
  symm
  rw [BitVec.eq_sub_iff_add_eq, ← word w, ← BitVec.ofInt_add, Int.sub_add_cancel, word a, BitVec.setWidth_eq]

/-- Settles O31: at each width the instructions are one action with two functions; ADDWG and SUBWG are sums and
differences with the word extended by zeros. -/
theorem incDecWide : Obligations.IncDecWide := by
  refine ⟨fun o s => ⟨?words, ?longs, ?sp⟩, ?offsets⟩
  case words =>
    intro h readO writeO l v
    have completes (i : Instr) (f : Word → Word) (hexec : exec i s = run (change16 f o) s) :
        ∃ t, exec i s = .next t ∧ t = l.store (f v.1) v.2 ∧ t.psw = s.psw ∧ s.sameControl t ∧
          s.keeps t (s.footLoc16 l) :=
      ⟨_, hexec.trans (run_change16_of (incwForm_direct h) readO writeO f), rfl,
        s.changed16_psw _ (incwForm_not_pswSfr h s), (s.changed16_dataOf _).sameControl,
        s.keeps_changed16 _ (s.locate16_inRegs o)⟩
    simp only [List.forall_mem_cons, List.not_mem_nil, false_imp_iff, implies_true, and_true]
    exact ⟨completes (.incw o) (· + 1) rfl, completes (.decw o) (· - 1) rfl⟩
  case longs =>
    intro g
    have completes (i : Instr) (f : Long → Long) (hexec : exec i s = run (change24 f (.rg g)) s) :
        ∃ t, exec i s = .next t ∧ t = s.setRg g (f (s.rg g)) ∧ s.keeps t (s.footRg g) :=
      ⟨_, hexec.trans (run_change24_rg f g s), rfl, s.keeps_setRg g _⟩
    simp only [List.forall_mem_cons, List.not_mem_nil, false_imp_iff, implies_true, and_true]
    exact ⟨completes (.incg (.rg g)) (· + 1) rfl, completes (.decg (.rg g)) (· - 1) rfl⟩
  case sp =>
    simp only [List.forall_mem_cons, List.not_mem_nil, false_imp_iff, implies_true, and_true]
    exact ⟨run_change24_sp (· + 1) s, run_change24_sp (· - 1) s⟩
  case offsets =>
    intro s w
    rw [← add_zeroExtended, ← sub_zeroExtended]
    exact ⟨rfl, rfl⟩

end Sys2Proof.Machine
end

section
/-! ADJBA, ADJBS, CVTBW (O32, O33; 46_incdec_adjust R510 to R512): the table of ADJBA as two corrections, one for each
digit, and the decimal sum and difference they make of a binary one. -/

namespace Sys2Proof

/-! ## The encodings -/

/-- The three operation codes of R194 begin no row of the table: what the rows decode, the decoder decodes. -/
theorem decode_eq_decodeRows {o : Opcodes} (h : o.free) {bs : List Byte} (hrows : decodeRows bs ≠ .unassigned) :
    decode o bs = decodeRows bs := by
  match bs with
  | [] => rfl
  | [b] => rfl
  | b1 :: b2 :: rest =>
    have notCode (p : Byte × Byte) (hp : p ∈ [o.movStbc, o.location, o.movWdm]) : (b1, b2) ≠ p := by
      rintro rfl
      exact hrows (h.2 _ hp rest)
    rw [decode_cons_cons, if_neg (notCode _ (by simp)), if_neg (notCode _ (by simp)), if_neg (notCode _ (by simp))]

theorem decodeRows_adjba (rest : List Byte) : decodeRows (0x05#8 :: 0xFE#8 :: rest) = .ok .adjba rest := rfl

theorem decodeRows_adjbs (rest : List Byte) : decodeRows (0x05#8 :: 0xFF#8 :: rest) = .ok .adjbs rest := rfl

theorem decodeRows_cvtbw (rest : List Byte) : decodeRows (0x04#8 :: rest) = .ok .cvtbw rest := rfl

/-- A row decodes so under any free operation codes. -/
theorem decode_of_decodeRows {o : Opcodes} (h : o.free) {bs rest : List Byte} {i : Instr}
    (hrows : decodeRows bs = .ok i rest) : decode o bs = .ok i rest := by
  rw [decode_eq_decodeRows h (by simp [hrows]), hrows]

namespace Machine

/-! ## The corrections -/

/-- 6 for each digit that is corrected. -/
def digitCorrection (high low : Bool) : Byte := (if high then 0x60#8 else 0#8) + (if low then 0x06#8 else 0#8)

/-- The two digits may be corrected one after the other. -/
theorem sub_digitCorrection (a : Byte) (high low : Bool) :
    a - digitCorrection high low = a - (if high then 0x60#8 else 0#8) - (if low then 0x06#8 else 0#8) := by
  rw [BitVec.eq_sub_iff_add_eq, BitVec.eq_sub_iff_add_eq, BitVec.add_assoc,
    BitVec.add_comm (if low then 0x06#8 else 0#8), digitCorrection, BitVec.sub_add_cancel]

/-- ADJBA corrects the low digit: it is above 9, or the addition carried out of it. -/
def lowCorrected (a : Byte) (ac : Bool) : Bool := ac || decide (10 ≤ a.toNat % 16)

/-- ADJBA corrects the high digit: it is above 9, or the addition carried out of it, or it is 9 and the correction of
the low digit carries into it. -/
def highCorrected (a : Byte) (cy ac : Bool) : Bool :=
  cy || decide (10 ≤ a.toNat / 16) || (!ac && decide (10 ≤ a.toNat % 16 ∧ a.toNat / 16 = 9))

section Corrections

variable {a : Byte} {cy ac : Bool}

theorem lowCorrected_iff : lowCorrected a ac = true ↔ ac = true ∨ 10 ≤ a.toNat % 16 := by
  simp [lowCorrected]

theorem highCorrected_iff : highCorrected a cy ac = true ↔
    cy = true ∨ 10 ≤ a.toNat / 16 ∨ (ac = false ∧ 10 ≤ a.toNat % 16 ∧ a.toNat / 16 = 9) := by
  simp [highCorrected, or_assoc]

theorem digitCorrection_toNat (high low : Bool) :
    (digitCorrection high low).toNat = 96 * high.toNat + 6 * low.toNat := by
  cases high <;> cases low <;> rfl

/-- In every row of the table CY and AC become 1 exactly where the high and the low digit are corrected. -/
theorem adjustAdd_flags : (adjustAdd a cy ac).2 = (highCorrected a cy ac, lowCorrected a ac) := by
  have both {p q high low : Bool} (hhigh : high = true ↔ p = true) (hlow : low = true ↔ q = true) :
      (p, q) = (high, low) := by rw [Bool.eq_iff_iff.mpr hhigh, Bool.eq_iff_iff.mpr hlow]
  unfold adjustAdd
  dsimp only
  repeat' split
  all_goals refine both (highCorrected_iff.trans ?_) (lowCorrected_iff.trans ?_)
  all_goals grind

/-- Every row of the table adds 6 to the digits whose flag it sets. -/
theorem adjustAdd_fst :
    (adjustAdd a cy ac).1 = a + digitCorrection (adjustAdd a cy ac).2.1 (adjustAdd a cy ac).2.2 := by
  unfold adjustAdd
  dsimp only
  split
  · split <;> rfl
  · split
    · split
      · exact (BitVec.add_zero a).symm
      · rfl
    · split <;> rfl

theorem adjustAdd_eq : adjustAdd a cy ac =
    (a + digitCorrection (highCorrected a cy ac) (lowCorrected a ac), highCorrected a cy ac, lowCorrected a ac) := by
  rw [Prod.ext_iff, adjustAdd_fst, adjustAdd_flags]
  exact ⟨rfl, rfl⟩

end Corrections

/-! ## The three instructions -/

section Adjusted

variable {s : State}

theorem State.a_setAdjusted (v : Byte) (cy ac : Bool) (h : s.ram.wf = true) : (s.setAdjusted v cy ac).a = v :=
  State.r8_setR8 s.regA v h

theorem State.keeps_setAdjusted (s : State) (v : Byte) (cy ac : Bool) :
    s.keeps (s.setAdjusted v cy ac) (s.footR8 s.regA) :=
  (s.keeps_setR8 s.regA v).trans_same (State.keeps_setRest _ _ _ _ _)

/-- A with its digits corrected, the flags the corrected digits leave. -/
def State.digitsCorrected (s : State) : State :=
  let high := highCorrected s.a s.psw.cy s.psw.ac
  let low := lowCorrected s.a s.psw.ac
  s.setAdjusted (s.a + digitCorrection high low) high low

theorem exec_adjba (s : State) : exec .adjba s = .next s.digitsCorrected := by
  have hexec : exec .adjba s = .next (s.setAdjusted (adjustAdd s.a s.psw.cy s.psw.ac).1
    (adjustAdd s.a s.psw.cy s.psw.ac).2.1 (adjustAdd s.a s.psw.cy s.psw.ac).2.2) := rfl
  rw [hexec, adjustAdd_eq, State.digitsCorrected]

/-- What ADJBA answers where it is known which digits it corrects. -/
theorem State.digitsCorrected_of {high low : Bool} {d : Byte} (h : s.ram.wf = true)
    (hhigh : highCorrected s.a s.psw.cy s.psw.ac = high) (hlow : lowCorrected s.a s.psw.ac = low)
    (hd : digitCorrection high low = d) :
    s.digitsCorrected.a = s.a + d ∧ s.digitsCorrected.psw.cy = high ∧ s.digitsCorrected.psw.ac = low := by
  subst hhigh hlow hd
  exact ⟨State.a_setAdjusted _ _ _ h, rfl, rfl⟩

theorem State.setAdjusted_psw (v : Byte) (cy ac : Bool) (h : s.ram.wf = true) :
    (s.setAdjusted v cy ac).psw = { s.psw with
      s := (s.setAdjusted v cy ac).a.msb, z := (s.setAdjusted v cy ac).a == 0#8,
      pv := par8 (s.setAdjusted v cy ac).a, ac := ac, cy := cy } := by
  rw [State.a_setAdjusted v cy ac h]
  rfl

theorem exec_adjbs (s : State) :
    exec .adjbs s = .next (s.setAdjusted (s.a - digitCorrection s.psw.cy s.psw.ac) s.psw.cy s.psw.ac) := rfl

end Adjusted

/-- Settles O32: the encodings are rows of the table; each row of ADJBA says which digits are corrected, and the
correction of ADJBS is that of the digits that borrowed. -/
theorem decimalAdjust : Obligations.DecimalAdjust := by
  refine ⟨fun o rest h => ?encodings, fun s hinv => ?adjba, fun s hinv => ⟨?adjbs, ?cvtbw⟩⟩
  case encodings =>
    exact ⟨decode_of_decodeRows h (decodeRows_adjba rest), decode_of_decodeRows h (decodeRows_adjbs rest),
      decode_of_decodeRows h (decodeRows_cvtbw rest)⟩
  case adjba =>
    intro lo hi ac cy
    have row {high low : Bool} {d : Byte} :=
      State.digitsCorrected_of (s := s) (high := high) (low := low) (d := d) hinv.ramForm
    -- The two gaps of a row: whether its conditions correct the high digit, and whether the low one.
    refine ⟨s.digitsCorrected, exec_adjba s, ?none,
      fun hac hlo hhi => row ?_ ?_ rfl,
      fun hac hlo hhi hcy => row ?_ ?_ rfl,
      fun hac hlo hhi => row ?_ ?_ rfl,
      fun hac hhi hcy => row ?_ ?_ rfl,
      fun hac hhi => row ?_ ?_ rfl,
      State.setAdjusted_psw _ _ _ hinv.ramForm, rfl, s.keeps_setAdjusted _ _ _⟩
    case none =>
      intro hac hlo hhi hcy
      rw [← BitVec.add_zero (x := s.a)]
      exact row (by grind [highCorrected]) (by grind [lowCorrected]) rfl
    all_goals grind [highCorrected, lowCorrected]
  case adjbs =>
    refine ⟨_, exec_adjbs s, ?a, State.setAdjusted_psw _ _ _ hinv.ramForm, rfl, s.keeps_setAdjusted _ _ _⟩
    rw [State.a_setAdjusted _ _ _ hinv.ramForm]
    exact sub_digitCorrection _ _ _
  case cvtbw =>
    refine ⟨_, rfl, ?_, rfl, s.keeps_setAx _⟩
    rw [State.ax_setAx _ hinv.ramForm, BitVec.toInt_signExtend_of_le (by decide)]

/-! ## Decimal addition and subtraction -/

/-- Two decimal digits. -/
def TwoDigits (v : Byte) : Prop := v.toNat % 16 ≤ 9 ∧ v.toNat / 16 ≤ 9

/-- The number the two digits write. -/
def decimal (v : Byte) : Nat := 10 * (v.toNat / 16) + v.toNat % 16

theorem TwoDigits.digits {v : Byte} (hv : TwoDigits v) :
    ∃ h l, h ≤ 9 ∧ l ≤ 9 ∧ v.toNat = 16 * h + l ∧ decimal v = 10 * h + l :=
  ⟨v.toNat / 16, v.toNat % 16, hv.2, hv.1, (Nat.div_add_mod _ 16).symm, rfl⟩

theorem twoDigits_of_digits {v : Byte} {h l : Nat} (hh : h ≤ 9) (hl : l ≤ 9) (hv : v.toNat = 16 * h + l) :
    TwoDigits v ∧ decimal v = 10 * h + l := by
  rw [TwoDigits, decimal]
  omega

/-- The carry out of a digit: what is left of the digit's sum is a digit again. -/
theorem digit_of_carry {n : Nat} {carry : Bool} (h : carry = true ↔ 10 ≤ n) (hn : n ≤ 19) :
    10 * carry.toNat ≤ n ∧ n ≤ 10 * carry.toNat + 9 := by
  cases carry with
  | true => exact ⟨h.mp rfl, hn⟩
  | false => exact ⟨Nat.zero_le n, Nat.le_of_lt_succ (Nat.not_le.mp (mt h.mpr Bool.false_ne_true))⟩

/-- The borrow into a digit: with ten more what is left of it is a digit again. -/
theorem digit_of_borrow {m n : Nat} {borrow : Bool} (h : borrow = true ↔ m < n) (hm : m ≤ 9) (hn : n ≤ 10) :
    n ≤ m + 10 * borrow.toNat ∧ m + 10 * borrow.toNat ≤ n + 9 := by
  cases borrow with
  | true =>
    have hlt := h.mp rfl
    simp only [Bool.toNat_true]
    omega
  | false =>
    have hle := Nat.not_lt.mp (mt h.mpr Bool.false_ne_true)
    simp only [Bool.toNat_false]
    omega

section Decimal

variable {a b : Byte} (ha : TwoDigits a) (hb : TwoDigits b) (c : Bool)

theorem addN_res_toNat (a b : Byte) (c : Bool) : (addN a b c).res.toNat = (a.toNat + b.toNat + c.toNat) % 256 :=
  BitVec.toNat_ofNat _ _

/-- The difference as a natural number: 512 is 0 modulo 256 and more than what is taken away. -/
theorem subN_res_toNat (a b : Byte) (c : Bool) :
    (subN a b c).res.toNat = (a.toNat + 512 - b.toNat - c.toNat) % 256 := by
  have hres : (subN a b c).res.toNat = (((a.toNat : Int) - b.toNat - c.toNat) % 256).toNat := BitVec.toNat_ofInt _
  have hb := b.isLt
  have hc := c.toNat_le
  omega

include ha hb

/-- The corrected sum is the decimal one, its third digit the carry: each digit is corrected where the sum of the two
digits and the carry into them is above 9. -/
theorem decimal_addN_corrected :
    let r := addN a b c
    let high := highCorrected r.res r.cy r.ac
    let v := r.res + digitCorrection high (lowCorrected r.res r.ac)
    TwoDigits v ∧ decimal v + 100 * high.toNat = decimal a + decimal b + c.toNat := by
  intro r high v
  obtain ⟨ah, al, hah, hal, ha, hda⟩ := ha.digits
  obtain ⟨bh, bl, hbh, hbl, hb, hdb⟩ := hb.digits
  have hc := c.toNat_le
  have hlow : lowCorrected r.res r.ac = true ↔ 10 ≤ al + bl + c.toNat := by
    rw [lowCorrected_iff, addN_ac, addN_res_toNat]
    omega
  have hv : v.toNat = ((a.toNat + b.toNat + c.toNat) % 256 +
      (96 * high.toNat + 6 * (lowCorrected r.res r.ac).toNat)) % 256 := by
    rw [BitVec.toNat_add, digitCorrection_toNat, addN_res_toNat]
  have hlowDigit := digit_of_carry hlow (by omega)
  have hhigh : high = true ↔ 10 ≤ ah + bh + (lowCorrected r.res r.ac).toNat := by
    rw [highCorrected_iff, addN_cy, ← Bool.not_eq_true, addN_ac, addN_res_toNat]
    omega
  have hhighDigit := digit_of_carry hhigh (by have := (lowCorrected r.res r.ac).toNat_le; omega)
  generalize (lowCorrected r.res r.ac).toNat = carry at *
  obtain ⟨digits, value⟩ := twoDigits_of_digits (v := v) (h := ah + bh + carry - 10 * high.toNat)
    (l := al + bl + c.toNat - 10 * carry) (by omega) (by omega) (by omega)
  exact ⟨digits, by omega⟩

/-- The corrected difference is the decimal one, and the borrow is its own: each digit is corrected where the binary
subtraction borrows from the next one. -/
theorem decimal_subN_corrected :
    let r := subN a b c
    let v := r.res - digitCorrection r.cy r.ac
    TwoDigits v ∧ decimal v + decimal b + c.toNat = decimal a + 100 * r.cy.toNat := by
  intro r v
  obtain ⟨ah, al, hah, hal, ha, hda⟩ := ha.digits
  obtain ⟨bh, bl, hbh, hbl, hb, hdb⟩ := hb.digits
  have hc := c.toNat_le
  have hv : v.toNat = (256 - (96 * r.cy.toNat + 6 * r.ac.toNat) +
      (a.toNat + 512 - b.toNat - c.toNat) % 256) % 256 := by
    rw [BitVec.toNat_sub, digitCorrection_toNat, subN_res_toNat]
  have hlow : r.ac = true ↔ al < bl + c.toNat := by
    rw [subN_ac]
    omega
  have hlowDigit := digit_of_borrow hlow hal (by omega)
  have hac := r.ac.toNat_le
  have hhigh : r.cy = true ↔ ah < bh + r.ac.toNat := by
    rw [subN_cy]
    omega
  have hhighDigit := digit_of_borrow hhigh hah (by omega)
  obtain ⟨digits, value⟩ := twoDigits_of_digits (v := v) (h := ah + 10 * r.cy.toNat - bh - r.ac.toNat)
    (l := al + 10 * r.ac.toNat - bl - c.toNat) (by omega) (by omega) (by omega)
  exact ⟨digits, by omega⟩

end Decimal

/-- Settles O33: the corrected sum and difference as decimal numbers. -/
theorem decimalArithmetic : Obligations.DecimalArithmetic := by
  intro s a b c hinv halo hahi hblo hbhi dec
  refine ⟨fun hs hac hcy => ?add, fun hs hac hcy => ?sub⟩
  case add =>
    obtain ⟨⟨hlo, hhi⟩, hsum⟩ := decimal_addN_corrected ⟨halo, hahi⟩ ⟨hblo, hbhi⟩ c
    rw [← hs, ← hac, ← hcy] at hlo hhi hsum
    refine ⟨_, exec_adjba s, ?_⟩
    obtain ⟨ht, hcarry, -⟩ := State.digitsCorrected_of hinv.ramForm rfl rfl rfl
    rw [ht, hcarry]
    exact ⟨hlo, hhi, hsum⟩
  case sub =>
    obtain ⟨⟨hlo, hhi⟩, hdifference⟩ := decimal_subN_corrected ⟨halo, hahi⟩ ⟨hblo, hbhi⟩ c
    rw [← hs, ← hac, ← hcy] at hlo hhi hdifference
    refine ⟨_, exec_adjbs s, ?_⟩
    rw [State.a_setAdjusted _ _ _ hinv.ramForm]
    exact ⟨hlo, hhi, hdifference⟩

end Machine
end Sys2Proof
end

section
/-! Shifts and rotates (O34, O35; 47_shift_rotate R530 to R538): `n` places are the rotate or shift by `n`, and CY is the
last bit that left. -/

namespace Sys2Proof.Machine

/-! ## Rotation of a bit vector, one place at a time -/

theorem getLsbD_rotateRight_mod {w : Nat} (x : BitVec w) (r i : Nat) :
    (x.rotateRight r).getLsbD i = (decide (i < w) && x.getLsbD ((r + i) % w)) := by
  rw [BitVec.getLsbD_rotateRight]
  by_cases hi : i < w
  · have hr : r % w < w := Nat.mod_lt r (by omega)
    rw [Nat.add_mod, Nat.mod_eq_of_lt hi]
    by_cases h : i < w - r % w
    · simp [h, hi, Nat.mod_eq_of_lt (by omega : r % w + i < w)]
    · have e : (r % w + i) % w = i - (w - r % w) := by
        rw [Nat.mod_eq_sub_mod (by omega), Nat.mod_eq_of_lt (by omega)]; omega
      simp [h, hi, e]
  · simp [hi, show ¬ i < w - r % w by omega]

theorem rotateRight_succ {w : Nat} (x : BitVec w) (n : Nat) :
    x.rotateRight (n + 1) = (x.rotateRight n).rotateRight 1 := by
  apply BitVec.eq_of_getLsbD_eq
  intro i hi
  have hm : (1 + i) % w < w := Nat.mod_lt _ (by omega)
  simp only [getLsbD_rotateRight_mod, hi, hm, decide_true, Bool.true_and, Nat.add_mod_mod, Nat.add_assoc]

/-- Turning left undoes turning right. -/
theorem rotateLeft_eq_rotateRight {w : Nat} (x : BitVec w) {n : Nat} (h : n ≤ w) :
    x.rotateLeft n = x.rotateRight (w - n) := by
  apply BitVec.eq_of_getLsbD_eq
  intro i hi
  rw [getLsbD_rotateRight_mod, BitVec.getLsbD_rotateLeft]
  rcases Nat.lt_or_ge n w with hn | hn
  · rw [Nat.mod_eq_of_lt hn]
    by_cases hlt : i < n
    · simp [hlt, hi, Nat.mod_eq_of_lt (by omega : w - n + i < w)]
    · have e : (w - n + i) % w = i - n := by
        rw [Nat.mod_eq_sub_mod (by omega), Nat.mod_eq_of_lt (by omega)]; omega
      simp [hlt, hi, e]
  · obtain rfl : n = w := by omega
    simp [hi, Nat.mod_eq_of_lt hi]

theorem rotateLeft_succ {w : Nat} (x : BitVec w) {n : Nat} (h : n < w) :
    x.rotateLeft (n + 1) = (x.rotateLeft n).rotateLeft 1 := by
  rw [rotateLeft_eq_rotateRight x h, rotateLeft_eq_rotateRight x (by omega : n ≤ w),
    rotateLeft_eq_rotateRight _ (by omega : 1 ≤ w)]
  apply BitVec.eq_of_getLsbD_eq
  intro i hi
  have hm : (w - 1 + i) % w < w := Nat.mod_lt _ (by omega)
  simp only [getLsbD_rotateRight_mod, hi, hm, decide_true, Bool.true_and, Nat.add_mod_mod]
  rw [show w - n + (w - 1 + i) = w - (n + 1) + i + w by omega, Nat.add_mod_right]

/-! ## `n` places -/

theorem placesOf_succ {w : Nat} (f : Place1 w) (n : Nat) (v : BitVec w) (cy : Bool) :
    placesOf f (n + 1) v cy = f (placesOf f n v cy).1 (placesOf f n v cy).2 := by
  induction n generalizing v cy with
  | zero => rfl
  | succ n ih => exact ih _ _

/-- A register of 8 bits, with CY above it: what RORC and ROLC turn. -/
def withCarry (v : Byte) (cy : Bool) : BitVec 9 := BitVec.ofBool cy ++ v

theorem withCarry_parts (v : Byte) (cy : Bool) :
    (withCarry v cy).setWidth 8 = v ∧ (withCarry v cy).msb = cy := by decide +revert

theorem rorOne_eq (v : Byte) (cy : Bool) : rorOne v cy = (v.rotateRight 1, (v.rotateRight 1).msb) := by
  decide +revert

theorem rolOne_eq (v : Byte) (cy : Bool) : rolOne v cy = (v.rotateLeft 1, (v.rotateLeft 1).getLsbD 0) := by
  decide +revert

theorem withCarry_rorcOne (v : Byte) (cy : Bool) :
    withCarry (rorcOne v cy).1 (rorcOne v cy).2 = (withCarry v cy).rotateRight 1 := by decide +revert

theorem withCarry_rolcOne (v : Byte) (cy : Bool) :
    withCarry (rolcOne v cy).1 (rolcOne v cy).2 = (withCarry v cy).rotateLeft 1 := by decide +revert

section Places

variable (v : Byte) (cy : Bool) (n : Nat)

theorem placesOf_rorOne : placesOf rorOne (n + 1) v cy = (v.rotateRight (n + 1), (v.rotateRight (n + 1)).msb) := by
  induction n with
  | zero => exact rorOne_eq v cy
  | succ n ih => rw [placesOf_succ, ih, rorOne_eq, ← rotateRight_succ]

theorem placesOf_rolOne (h : n < 8) :
    placesOf rolOne (n + 1) v cy = (v.rotateLeft (n + 1), (v.rotateLeft (n + 1)).getLsbD 0) := by
  induction n with
  | zero => exact rolOne_eq v cy
  | succ n ih => rw [placesOf_succ, ih (by omega), rolOne_eq, ← rotateLeft_succ _ h]

/-- Turning the register and CY as one is what leaves the register and CY. -/
theorem eq_of_withCarry {p : Byte × Bool} {x : BitVec 9} (h : withCarry p.1 p.2 = x) : p = (x.setWidth 8, x.msb) := by
  rw [← h, (withCarry_parts p.1 p.2).1, (withCarry_parts p.1 p.2).2]

theorem withCarry_places_rorcOne :
    withCarry (placesOf rorcOne n v cy).1 (placesOf rorcOne n v cy).2 = (withCarry v cy).rotateRight n := by
  induction n with
  | zero =>
    apply BitVec.eq_of_getLsbD_eq
    intro i hi
    rw [getLsbD_rotateRight_mod]
    simp [placesOf, hi, Nat.mod_eq_of_lt hi]
  | succ n ih => rw [placesOf_succ, withCarry_rorcOne, ih, ← rotateRight_succ]

theorem withCarry_places_rolcOne (h : n ≤ 9) :
    withCarry (placesOf rolcOne n v cy).1 (placesOf rolcOne n v cy).2 = (withCarry v cy).rotateLeft n := by
  induction n with
  | zero =>
    apply BitVec.eq_of_getLsbD_eq
    intro i hi
    rw [BitVec.getLsbD_rotateLeft]
    simp [placesOf, hi]
  | succ n ih => rw [placesOf_succ, withCarry_rolcOne, ih (by omega), ← rotateLeft_succ _ h]

end Places

/-! ## ROR, ROL, RORC, ROLC -/

/-- A rotate of which `c` places, `c` not 0, answer `p`. -/
theorem run_rotate_of {s : State} {f : Place1 8} {n : R8} {c : Fin 8} {p : Byte × Bool}
    (h : c ≠ 0 → placesOf f c.val (s.r8 n) s.psw.cy = p) :
    run (modify (·.rotate f n c)) s =
      .next (if c = 0 then s else { s.setR8 n p.1 with psw := { s.psw with pv := par8 p.1, cy := p.2 } }) := by
  rw [run_modify, State.rotate]
  split
  · rfl
  · next hc => rw [h hc]; rfl

theorem Fin.exists_succ_of_ne_zero {c : Fin 8} (h : c ≠ 0) : ∃ n, c.val = n + 1 ∧ n < 7 :=
  ⟨c.val - 1, by omega, by omega⟩

/-- Settles O34. -/
theorem rotates : Obligations.Rotates := by
  intro s n c v x done
  refine ⟨run_rotate_of (p := (_, _)) fun hc => ?_, run_rotate_of (p := (_, _)) fun hc => ?_,
    run_rotate_of (p := (_, _)) fun _ => eq_of_withCarry (withCarry_places_rorcOne v s.psw.cy c.val),
    run_rotate_of (p := (_, _)) fun _ => eq_of_withCarry (withCarry_places_rolcOne v s.psw.cy c.val (by omega))⟩
  · obtain ⟨m, hm, _⟩ := Fin.exists_succ_of_ne_zero hc
    rw [hm]; exact placesOf_rorOne v s.psw.cy m
  · obtain ⟨m, hm, _⟩ := Fin.exists_succ_of_ne_zero hc
    rw [hm]; exact placesOf_rolOne v s.psw.cy m (by omega)

/-! ## SHR, SHL, SHRW, SHLW -/

section Shifted

variable {w : Nat} (v : BitVec w) (cy : Bool) (n : Nat)

theorem placesOf_shrOne : placesOf shrOne (n + 1) v cy = (v >>> (n + 1), v.getLsbD n) := by
  induction n with
  | zero => rfl
  | succ n ih => rw [placesOf_succ, ih, shrOne, BitVec.shiftRight_add v (n + 1) 1]; simp

theorem placesOf_shlOne (h : n < w) : placesOf shlOne (n + 1) v cy = (v <<< (n + 1), v.getLsbD (w - (n + 1))) := by
  induction n with
  | zero => simp [placesOf, shlOne, BitVec.msb_eq_getLsbD_last]
  | succ n ih =>
    rw [placesOf_succ, ih (by omega), shlOne, BitVec.shiftLeft_add v (n + 1) 1]
    simp [BitVec.getMsbD_eq_getLsbD, h, Nat.sub_sub, Nat.add_comm]

end Shifted

theorem run_shift8_of {s : State} {f : Place1 8} {n : R8} {c : Fin 8} {p : Byte × Bool}
    (h : c ≠ 0 → placesOf f c.val (s.r8 n) s.psw.cy = p) :
    run (modify (·.shift8 f n c)) s = .next (if c = 0 then s else
      { s.setR8 n p.1 with psw := { s.psw with
        s := p.1.msb, z := p.1 == 0#8, ac := false, pv := par8 p.1, cy := p.2 } }) := by
  rw [run_modify, State.shift8]
  split
  · rfl
  · next hc => rw [h hc]; rfl

theorem run_shift16_of {s : State} {f : Place1 16} {n : RP} {c : Fin 8} {p : Word × Bool}
    (h : c ≠ 0 → placesOf f c.val (s.rp n) s.psw.cy = p) :
    run (modify (·.shift16 f n c)) s = .next (if c = 0 then s else
      { s.setRp n p.1 with psw := { s.psw with
        s := p.1.msb, z := p.1 == 0#16, ac := false, pv := par8 (p.1.setWidth 8), cy := p.2 } }) := by
  rw [run_modify, State.shift16]
  split
  · rfl
  · next hc => rw [h hc, BitVec.setWidth_eq_extractLsb' (by omega : 8 ≤ 16)]; rfl

/-- Settles O35. -/
theorem shifts : Obligations.Shifts := by
  intro s n p c v w done8 done16
  refine ⟨run_shift8_of (p := (_, _)) fun hc => ?_, run_shift8_of (p := (_, _)) fun hc => ?_,
    run_shift16_of (p := (_, _)) fun hc => ?_, run_shift16_of (p := (_, _)) fun hc => ?_⟩ <;>
    obtain ⟨m, hm, _⟩ := Fin.exists_succ_of_ne_zero hc <;> rw [hm]
  · exact placesOf_shrOne v s.psw.cy m
  · exact placesOf_shlOne v s.psw.cy m (by omega)
  · exact placesOf_shrOne w s.psw.cy m
  · exact placesOf_shlOne w s.psw.cy m (by omega)

end Sys2Proof.Machine
end

section
/-! Running an action that begins with the state, with an update or with a write: the state goes on as it is, not as
the half of a pair. -/

namespace Sys2Proof.Machine

theorem bind_get {β : Type} (f : State → Act β) (s : State) : (get >>= f) s = f s s := rfl

theorem run_bind_get (f : State → Act Unit) (s : State) : run (get >>= f) s = run (f s) s := rfl

theorem run_bind_modify (g : State → State) (f : PUnit → Act Unit) (s : State) :
    run (modify g >>= f) s = run (f ⟨⟩) (g s) := rfl

theorem run_bind_ok {α : Type} {m : Act α} {s t : State} {x : α} (f : α → Act Unit) (h : m s = .ok (x, t)) :
    run (m >>= f) s = run (f x) t := run_bind_of f h

end Sys2Proof.Machine
end

section
/-! ROR4 and ROL4 (O36; 47_shift_rotate R539, R540): A is written, then the byte, and what the two writes leave alone. -/

namespace Sys2Proof.Machine

/-- PC, PSW, SP, the record of the host and the count of free values are no bytes and no extension registers. -/
theorem State.keeps_rest (s : State) (p : PAddr) (q : Psw) (v : Long) (i : List IoEvent) (d : Nat) (f : Footprint) :
    s.keeps { s with pc := p, psw := q, sp := v, io := i, draws := d } f :=
  State.keeps_of_same (s := s) (t := { s with pc := p, psw := q, sp := v, io := i, draws := d }) ⟨rfl, rfl⟩ rfl rfl rfl f

/-- A takes a value, then the byte at `e`, in the state after that byte was read. -/
def State.digitsMoved (s : State) (e : Long) (x y : Byte) : State := ((s.look e).2.setA x).store e y

section DigitsMoved

variable (s : State) (e : Long) (x y : Byte)

theorem State.digitsMoved_dataOf : s.DataOf (s.digitsMoved e x y) :=
  ((Loc8.look_dataOf (.mem e) s).trans (State.setRam8_dataOf _ _ _)).trans (State.store_dataOf _ e y)

theorem State.digitsMoved_psw : (s.digitsMoved e x y).psw = s.psw := by
  obtain ⟨i, h⟩ := s.look_io e
  rw [State.digitsMoved, h]
  obtain ⟨_, _, _, h'⟩ := State.store_parts (State.setA { s with io := i } x) e y
  rw [h']; rfl

theorem State.keeps_digitsMoved :
    s.keeps (s.digitsMoved e x y) ((s.footR8 s.regA).and ⟨bytesAt e 1, []⟩) := by
  obtain ⟨i, h⟩ := s.look_io e
  rw [State.digitsMoved, h]
  have hA : s.keeps (State.setA { s with io := i } x) (s.footR8 s.regA) :=
    (s.keeps_rest s.pc s.psw s.sp i s.draws Footprint.nothing).trans (State.keeps_setR8 { s with io := i } s.regA x)
  exact hA.trans (State.keeps_store _ e y)

end DigitsMoved

/-- Digits of A and of the byte read make the new A and the new byte. -/
theorem run_digits_of {s : State} {e : Long} (hr : s.readable e = true) (hw : s.writable e = true)
    (f g : Byte → Byte) :
    run (do
      let v ← readByte e
      modify (·.setA (f v))
      writeByte e (g v)) s = .next (s.digitsMoved e (f (s.look e).1) (g (s.look e).1)) := by
  have hmap : s.SameMap ((s.look e).2.setA (f (s.look e).1)) :=
    ((Loc8.look_dataOf (.mem e) s).trans (State.setRam8_dataOf _ _ _)).sameMap
  rw [run_bind_of _ (readByte_of hr), run_bind_modify]
  exact run_of_ok (writeByte_of _ ((State.writable_congr hmap.1 hmap.2 e).trans hw))

/-- Settles O36. -/
theorem digitRotates : Obligations.DigitRotates := by
  intro s m hr hw e v hi lo p hp
  have done : exec p.1 s = .next (s.digitsMoved e p.2.1 p.2.2) := by
    simp only [List.mem_cons, List.not_mem_nil, or_false] at hp
    rcases hp with rfl | rfl
    · show execRor4 m s = _
      rw [execRor4, run_bind_get]
      exact run_digits_of hr hw (fun v => hi s.a ++ lo v) (fun v => lo s.a ++ hi v)
    · show execRol4 m s = _
      rw [execRol4, run_bind_get]
      exact run_digits_of hr hw (fun v => hi s.a ++ hi v) (fun v => lo v ++ lo s.a)
  exact ⟨_, done, rfl, s.digitsMoved_psw e _ _, (s.digitsMoved_dataOf e _ _).sameControl, s.keeps_digitsMoved e _ _⟩

end Sys2Proof.Machine
end

section
/-! Bits (O37, O38; 48_bit R560 to R568): the bits of the PSW's two bytes, what reading the byte of a bit operand and writing
one bit of it do, and the instructions made of them. -/

namespace Sys2Proof.Machine

/-! ## Case splits of small numbers -/

theorem eightCases {motive : Fin 8 → Prop} (zero : motive ⟨0, by decide⟩) (one : motive ⟨1, by decide⟩)
    (two : motive ⟨2, by decide⟩) (three : motive ⟨3, by decide⟩) (four : motive ⟨4, by decide⟩)
    (five : motive ⟨5, by decide⟩) (six : motive ⟨6, by decide⟩) (seven : motive ⟨7, by decide⟩)
    (j : Fin 8) : motive j :=
  match j with
  | 0 => zero
  | 1 => one
  | 2 => two
  | 3 => three
  | 4 => four
  | 5 => five
  | 6 => six
  | 7 => seven

theorem fourCases {motive : Fin 4 → Prop} (zero : motive ⟨0, by decide⟩) (one : motive ⟨1, by decide⟩)
    (two : motive ⟨2, by decide⟩) (three : motive ⟨3, by decide⟩) (j : Fin 4) : motive j :=
  match j with
  | 0 => zero
  | 1 => one
  | 2 => two
  | 3 => three

theorem lt_three_cases {i : Nat} (h : i < 3) : i = 0 ∨ i = 1 ∨ i = 2 := by omega

theorem lt_four_cases {i : Nat} (h : i < 4) : i = 0 ∨ i = 1 ∨ i = 2 ∨ i = 3 := by omega

theorem lt_eight_cases {i : Nat} (h : i < 8) :
    i = 0 ∨ i = 1 ∨ i = 2 ∨ i = 3 ∨ i = 4 ∨ i = 5 ∨ i = 6 ∨ i = 7 := by omega

/-- A counter reaches 0 from 1. -/
theorem pred_eq_zero_iff (v : Byte) : v - 1 = 0x00#8 ↔ v = 1#8 := by bv_omega

/-! ## The bits of the PSW (10_state R32, R40, R42) -/

theorem Psw.low_eq_concat (p : Psw) :
    p.low = (((((((BitVec.ofBool p.s).concat p.z).concat p.rss).concat p.ac).concat p.ie).concat p.pv).concat
      false).concat p.cy := rfl

/-- The bits of PSWL, the lowest first. -/
theorem Psw.low_getLsbD (p : Psw) (j : Fin 8) :
    p.low.getLsbD j.val = [p.cy, false, p.pv, p.ie, p.ac, p.rss, p.z, p.s][j.val] := by
  rw [Psw.low_eq_concat]
  cases j using eightCases <;> simp

/-- The bits of PSWH, the lowest first. -/
theorem Psw.high_getLsbD (p : Psw) (n : BitVec 4) (j : Fin 8) :
    (p.high n).getLsbD j.val = [n.getLsbD 0, n.getLsbD 1, n.getLsbD 2, n.getLsbD 3,
      p.rbs.getLsbD 0, p.rbs.getLsbD 1, p.rbs.getLsbD 2, p.uf][j.val] := by
  rw [Psw.high, BitVec.getLsbD_append (x := BitVec.ofBool p.uf ++ p.rbs) (y := n),
    BitVec.getLsbD_append (x := BitVec.ofBool p.uf) (y := p.rbs)]
  cases j using eightCases <;> simp

theorem bits_down_from_seven (v : Byte) : (List.range 8).reverse.map v.getLsbD =
    [v.getLsbD 7, v.getLsbD 6, v.getLsbD 5, v.getLsbD 4, v.getLsbD 3, v.getLsbD 2, v.getLsbD 1, v.getLsbD 0] := rfl

theorem Psw.low_bits (p : Psw) :
    (List.range 8).reverse.map p.low.getLsbD = [p.s, p.z, p.rss, p.ac, p.ie, p.pv, false, p.cy] := by
  have h := p.low_getLsbD
  simp only [bits_down_from_seven, List.cons.injEq, and_true]
  exact ⟨h 7, h 6, h 5, h 4, h 3, h 2, h 1, h 0⟩

theorem Psw.high_bits (p : Psw) (n : BitVec 4) :
    (List.range 8).reverse.map (p.high n).getLsbD =
      [p.uf, p.rbs.getLsbD 2, p.rbs.getLsbD 1, p.rbs.getLsbD 0,
        n.getLsbD 3, n.getLsbD 2, n.getLsbD 1, n.getLsbD 0] := by
  have h := p.high_getLsbD n
  simp only [bits_down_from_seven, List.cons.injEq, and_true]
  exact ⟨h 7, h 6, h 5, h 4, h 3, h 2, h 1, h 0⟩

theorem Psw.setLow_low (p : Psw) (v : Byte) : (p.setLow v).low = v &&& 0xFD#8 := by
  apply BitVec.eq_of_getLsbD_eq
  intro i hi
  rw [BitVec.getLsbD_and, (p.setLow v).low_getLsbD ⟨i, hi⟩]
  rcases lt_eight_cases hi with rfl | rfl | rfl | rfl | rfl | rfl | rfl | rfl <;> simp [Psw.setLow]

theorem Psw.setHigh_high (p : Psw) (v : Byte) (n : BitVec 4) : (p.setHigh v).high n = v.extractLsb' 4 4 ++ n := by
  have h : BitVec.ofBool (v.getLsbD 7) ++ v.extractLsb' 4 3 = v.extractLsb' 4 4 := by
    apply BitVec.eq_of_getLsbD_eq
    intro i hi
    rw [BitVec.getLsbD_append (x := BitVec.ofBool (v.getLsbD 7)) (y := v.extractLsb' 4 3), BitVec.getLsbD_extractLsb',
      BitVec.getLsbD_extractLsb']
    rcases lt_four_cases hi with rfl | rfl | rfl | rfl <;> simp
  rw [← h]; rfl

theorem Psw.setLow_low_self (p q : Psw) : q.setLow p.low = { p with uf := q.uf, rbs := q.rbs } := by
  rw [Psw.setLow, show p.low.getLsbD 7 = p.s from p.low_getLsbD 7, show p.low.getLsbD 6 = p.z from p.low_getLsbD 6,
    show p.low.getLsbD 5 = p.rss from p.low_getLsbD 5, show p.low.getLsbD 4 = p.ac from p.low_getLsbD 4,
    show p.low.getLsbD 3 = p.ie from p.low_getLsbD 3, show p.low.getLsbD 2 = p.pv from p.low_getLsbD 2,
    show p.low.getLsbD 0 = p.cy from p.low_getLsbD 0]

theorem Psw.setHigh_high_self (p q : Psw) (n : BitVec 4) :
    q.setHigh (p.high n) = { q with uf := p.uf, rbs := p.rbs } := by
  have hu : (p.high n).getLsbD 7 = p.uf := p.high_getLsbD n 7
  have hr : (p.high n).extractLsb' 4 3 = p.rbs := by
    apply BitVec.eq_of_getLsbD_eq
    intro i hi
    rw [BitVec.getLsbD_extractLsb', p.high_getLsbD n ⟨4 + i, by omega⟩]
    rcases lt_three_cases hi with rfl | rfl | rfl <;> simp
  rw [Psw.setHigh, hu, hr]

theorem word_parts (h l : Byte) : (h ++ l).extractLsb' 0 8 = l ∧ (h ++ l).extractLsb' 8 8 = h := by
  constructor <;> apply BitVec.eq_of_getLsbD_eq <;> intro i hi <;> rw [BitVec.getLsbD_extractLsb']
  · rw [Nat.zero_add, BitVec.getLsbD_append (x := h) (y := l)]
    simp [hi]
  · rw [BitVec.getLsbD_append (x := h) (y := l)]
    simp [hi]

/-- A PSW saved as a word comes back, whatever stands in the four bits without storage. -/
theorem Psw.ofWord_saved (p q : Psw) (n : BitVec 4) : q.ofWord (p.high n ++ p.low) = p := by
  rw [Psw.ofWord, (word_parts _ _).1, (word_parts _ _).2, Psw.setLow_low_self, Psw.setHigh_high_self]

theorem Psw.setLowBit_low (p : Psw) (b j : Fin 8) (u : Bool) :
    (p.setLowBit b u).low.getLsbD j.val = if j = b ∧ b ≠ 1 then u else p.low.getLsbD j.val := by
  rw [Psw.low_getLsbD, Psw.low_getLsbD]
  cases b using eightCases <;> cases j using eightCases <;> rfl

theorem Psw.setHighBit_high (p : Psw) (n : BitVec 4) (b j : Fin 8) (u : Bool) :
    ((p.setHighBit b u).high n).getLsbD j.val = if j = b ∧ 4 ≤ b.val then u else (p.high n).getLsbD j.val := by
  have bit (k : Nat) :
      (BitVec.ofBool u ++ p.rbs.extractLsb' 0 2 : BitVec 3).getLsbD k = _ ∧
      (p.rbs.extractLsb' 2 1 ++ BitVec.ofBool u ++ p.rbs.extractLsb' 0 1 : BitVec 3).getLsbD k = _ ∧
      (p.rbs.extractLsb' 1 2 ++ BitVec.ofBool u : BitVec 3).getLsbD k = _ :=
    ⟨BitVec.getLsbD_append (x := BitVec.ofBool u) (y := p.rbs.extractLsb' 0 2),
     BitVec.getLsbD_append (x := p.rbs.extractLsb' 2 1 ++ BitVec.ofBool u) (y := p.rbs.extractLsb' 0 1),
     BitVec.getLsbD_append (x := p.rbs.extractLsb' 1 2) (y := BitVec.ofBool u)⟩
  have top (k : Nat) : (p.rbs.extractLsb' 2 1 ++ BitVec.ofBool u).getLsbD k = _ := BitVec.getLsbD_append
  rw [Psw.high_getLsbD, Psw.high_getLsbD]
  cases b using eightCases <;> cases j using eightCases <;> simp [Psw.setHighBit, -BitVec.getLsbD_eq_getElem, bit, top]

theorem setBitOf_getLsbD (t : Byte) (b j : Fin 8) (v : Bool) :
    (setBitOf t b v).getLsbD j.val = if j = b then v else t.getLsbD j.val := by
  have one : (0x01#8 <<< b.val).getLsbD j.val = decide (j = b) := by
    refine (BitVec.getLsbD_twoPow b.val j.val).trans ?_
    simp [Fin.ext_iff, eq_comm]
  have hne : (~~~(0x01#8 <<< b.val)).getLsbD j.val = !decide (j = b) := by
    rw [BitVec.getLsbD_not, one, decide_eq_true j.isLt, Bool.true_and]
  unfold setBitOf
  cases v
  · rw [if_neg (by simp), BitVec.getLsbD_and, hne]
    by_cases h : j = b <;> simp [h]
  · rw [if_pos rfl, BitVec.getLsbD_or, one]
    by_cases h : j = b <;> simp [h]

/-! ## The byte of a bit operand -/

theorem Loc8.lookBit_parts (l : Loc8) (b : Fin 8) (s : State) :
    ∃ i d, (l.lookBit b s).2 = { s with io := i, draws := d } := by
  cases l with
  | pswh => rw [Loc8.lookBit]; split <;> exact ⟨_, _, rfl⟩
  | mem a => exact Loc8.look_parts (.mem a) s
  | _ => exact ⟨_, _, rfl⟩

theorem Loc8.lookBit_of_not_pswh {l : Loc8} (b : Fin 8) (s : State) (h : l ≠ .pswh) : l.lookBit b s = l.look s := by
  cases l with
  | pswh => exact absurd rfl h
  | _ => rfl

/-- The stored bits of PSWH are read without an undefined value. -/
theorem Loc8.lookBit_pswh_high {b : Fin 8} (s : State) (h : 4 ≤ b.val) :
    (Loc8.pswh.lookBit b s).2 = s ∧
      ∀ n, (Loc8.pswh.lookBit b s).1.getLsbD b.val = (s.psw.high n).getLsbD b.val := by
  rw [Loc8.lookBit, if_neg (by omega)]
  refine ⟨rfl, fun n => ?_⟩
  rw [Psw.high_getLsbD, Psw.high_getLsbD]
  cases b using eightCases with
  | zero | one | two | three => exact absurd h (by decide)
  | four | five | six | seven => rfl

theorem Loc8.lookBit_psw (l : Loc8) (b : Fin 8) (s : State) : (l.lookBit b s).2.psw = s.psw := by
  obtain ⟨i, d, h⟩ := l.lookBit_parts b s; rw [h]

theorem Loc8.lookBit_pc (l : Loc8) (b : Fin 8) (s : State) : (l.lookBit b s).2.pc = s.pc := by
  obtain ⟨i, d, h⟩ := l.lookBit_parts b s; rw [h]

theorem Loc8.lookBit_dataOf (l : Loc8) (b : Fin 8) (s : State) : s.DataOf (l.lookBit b s).2 := by
  obtain ⟨i, d, h⟩ := l.lookBit_parts b s; exact ⟨_, _, _, _, i, d, h⟩

theorem Loc8.keeps_lookBit (l : Loc8) (b : Fin 8) (s : State) (f : Footprint) : s.keeps (l.lookBit b s).2 f := by
  obtain ⟨i, d, h⟩ := l.lookBit_parts b s; rw [h]; exact s.keeps_rest _ _ _ _ _ f

theorem Loc8.storeBit_dataOf (l : Loc8) (t : Byte) (b : Fin 8) (v : Bool) (s : State) :
    s.DataOf (l.storeBit t b v s) := by
  cases l with
  | pswl => exact ⟨_, _, _, _, _, _, rfl⟩
  | pswh => exact ⟨_, _, _, _, _, _, rfl⟩
  | ram k => exact Loc8.store_dataOf (.ram k) (setBitOf t b v) s
  | imm x => exact State.DataOf.refl s
  | mem a => exact Loc8.store_dataOf (.mem a) (setBitOf t b v) s
  | ext i => exact Loc8.store_dataOf (.ext i) (setBitOf t b v) s

theorem State.keeps_storeBit {l : Loc8} (t : Byte) (b : Fin 8) (v : Bool) (s : State) (h : l.inArea) :
    s.keeps (l.storeBit t b v s) (s.footLoc8 l) := by
  cases l with
  | pswl => exact s.keeps_rest s.pc _ s.sp s.io s.draws _
  | pswh => exact s.keeps_rest s.pc _ s.sp s.io s.draws _
  | _ => exact State.keeps_store8 _ (setBitOf t b v) s h

/-- One bit of the byte read is written back: what the two accesses leave alone. -/
theorem State.keeps_changedBit {l : Loc8} (b : Fin 8) (v : Bool) (s : State) (h : l.inArea) :
    s.keeps (l.storeBit (l.lookBit b s).1 b v (l.lookBit b s).2) (s.footLoc8 l) := by
  have hmap := (l.lookBit_dataOf b s).sameMap
  exact ((l.keeps_lookBit b s Footprint.nothing).trans
    (State.keeps_storeBit (l.lookBit b s).1 b v (l.lookBit b s).2 h)).mono
    (by simp [Footprint.and, Footprint.nothing, State.footLoc8_congr hmap])
    (by simp [Footprint.and, Footprint.nothing, State.footLoc8_congr hmap])

/-! ## CY from a bit (R562 to R565) -/

theorem run_bitToCy_of {s : State} {x : BitLoc} (b : Fin 8) {c : Bool} (f : Bool → Bool → Bool)
    (h : s.readsBit x = true) (hc : f s.psw.cy (((s.locateBit x).lookBit b s).1.getLsbD b.val) = c) :
    let p := (s.locateBit x).lookBit b s
    ∃ t, run (bitToCy f x b) s = .next t ∧ t = { p.2 with psw := { s.psw with cy := c } } ∧
      s.sameControl t ∧ s.keeps t Footprint.nothing := by
  intro p
  have hrun : run (bitToCy f x b) s = .next { p.2 with psw := { s.psw with cy := c } } := by
    unfold bitToCy
    rw [run_bind_of _ (readBit_of b h), run_modify, State.setCy, Loc8.lookBit_psw, hc]
  obtain ⟨i, d, hp⟩ := (s.locateBit x).lookBit_parts b s
  refine ⟨_, hrun, rfl, ?_, ?_⟩
  · rw [hp]; rfl
  · rw [hp]; exact s.keeps_rest _ _ _ _ _ _

/-- Settles O37. -/
theorem bitToCarry : Obligations.BitToCarry := by
  refine ⟨fun s l b => ⟨Loc8.lookBit_of_not_pswh b s, Loc8.lookBit_pswh_high s, fun h => if_pos h⟩, ?_⟩
  intro s x b h p v cy q hq
  simp only [List.mem_cons, List.not_mem_nil, or_false] at hq
  rcases hq with rfl | rfl | rfl | rfl | rfl | rfl
  · exact run_bitToCy_of b (fun _ v => v) h rfl
  · exact run_bitToCy_of b (fun cy v => cy && (v != false)) h (by rw [Bool.bne_false])
  · exact run_bitToCy_of b (fun cy v => cy && (v != true)) h (by rw [Bool.bne_true])
  · exact run_bitToCy_of b (fun cy v => cy || (v != false)) h (by rw [Bool.bne_false])
  · exact run_bitToCy_of b (fun cy v => cy || (v != true)) h (by rw [Bool.bne_true])
  · exact run_bitToCy_of b (fun cy v => cy != v) h rfl

/-! ## A bit changed (R561, R562, R566 to R568) -/

theorem run_changeBit_of {s : State} {x : BitLoc} (b : Fin 8) {c : Bool} (f : Bool → Bool)
    (h : s.writesBit x = true) (hc : f (((s.locateBit x).lookBit b s).1.getLsbD b.val) = c) :
    let p := (s.locateBit x).lookBit b s
    run (changeBit x b f) s = .next ((s.locateBit x).storeBit p.1 b c p.2) := by
  intro p
  exact run_guardedSet.mpr ⟨h, hc ▸ rfl⟩

/-- What writing one bit of the byte just read comes to. -/
theorem State.changedBit_spec (s : State) (x : BitLoc) (b : Fin 8) (c : Bool) :
    let l := s.locateBit x
    let p := l.lookBit b s
    let t := l.storeBit p.1 b c p.2
    t = (match l with
      | .pswl => { p.2 with psw := s.psw.setLowBit b c }
      | .pswh => { p.2 with psw := s.psw.setHighBit b c }
      | l => l.store (setBitOf p.1 b c) p.2) ∧
    s.sameControl t ∧ s.keeps t (s.footLoc8 l) := by
  intro l p t
  refine ⟨?_, ((l.lookBit_dataOf b s).trans (l.storeBit_dataOf p.1 b c p.2)).sameControl,
    State.keeps_changedBit b c s (s.locateBit_inRegs x).inArea⟩
  have hpsw : p.2.psw = s.psw := l.lookBit_psw b s
  show l.storeBit p.1 b c p.2 = _
  generalize p = q at hpsw
  cases l <;> simp only [Loc8.storeBit, hpsw]

/-- Settles O38. -/
theorem bitWrites : Obligations.BitWrites := by
  refine ⟨fun p n => ⟨p.low_bits, p.high_bits n⟩, ?_, ?_⟩
  · intro p n v w b j u
    refine ⟨p.setLow_low v, rfl, p.setHigh_high v n, rfl, rfl, Psw.ofWord_saved p p n, p.setLowBit_low b j u, ?_,
      p.setHighBit_high n b j u, ?_⟩
    · cases b using eightCases <;> rfl
    · cases b using eightCases <;> rfl
  · intro s x b
    refine ⟨?_, ?_, fun t v j => setBitOf_getLsbD t b j v⟩
    · intro h l p q hq
      obtain ⟨hform, hcontrol, hkeeps⟩ := s.changedBit_spec x b q.2
      refine ⟨_, ?_, hform, rfl, hcontrol, hkeeps⟩
      simp only [List.mem_cons, List.not_mem_nil, or_false] at hq
      rcases hq with rfl | rfl | rfl | rfl
      · show execMov1To x b s = _
        rw [execMov1To, run_bind_get]
        exact run_changeBit_of b (fun _ => s.psw.cy) h rfl
      · exact run_changeBit_of b (fun v => !v) h rfl
      · exact run_changeBit_of b (fun _ => true) h rfl
      · exact run_changeBit_of b (fun _ => false) h rfl
    · intro q hq
      simp only [List.mem_cons, List.not_mem_nil, or_false] at hq
      rcases hq with rfl | rfl | rfl <;> rfl

end Sys2Proof.Machine
end

section
/-! BR, the conditional branches, BF, BT, BTCLR, BFSET and DBNZ (O49, O50; 51_branch). -/

namespace Sys2Proof.Machine

/-! ## BR and its targets (R690 to R698) -/

theorem targetOf_of {s : State} {t : Target} (h : s.readsTarget t = true) : targetOf t s = .ok (s.target t) := by
  cases t with
  | indRp n =>
    unfold targetOf
    rw [bind_get]
    exact bind_of _ (readMem16_of h)
  | indRg g =>
    unfold targetOf
    rw [bind_get]
    exact bind_of _ (readMem24_of h)
  | _ => rfl

/-- A displacement counts from the next instruction, modulo 2^20. -/
theorem add_signExtend {w : Nat} (p : PAddr) (d : BitVec w) :
    p + d.signExtend 20 = BitVec.ofInt 20 (p.toNat + d.toInt) := by
  rw [BitVec.ofInt_add, BitVec.ofInt_natCast, BitVec.ofNat_toNat, BitVec.setWidth_eq]
  rfl

/-- Settles O49. -/
theorem branches : Obligations.Branches := by
  refine ⟨fun s t h => ⟨?_, fun d => add_signExtend s.pc d, fun d => add_signExtend s.pc d⟩, ?_⟩
  · show execBr t s = _
    rw [execBr, run_bind_of _ (targetOf_of h)]
    rfl
  · intro s d p lt q hq
    have hge : (p.pv == p.s) = !lt := by
      show _ = !(p.pv ^^ p.s)
      cases p.pv <;> cases p.s <;> rfl
    simp only [List.mem_cons, List.not_mem_nil, or_false, ← hge] at hq
    rcases hq with rfl | rfl | rfl | rfl | rfl | rfl | rfl | rfl | rfl | rfl | rfl | rfl | rfl | rfl | rfl | rfl | rfl |
      rfl | rfl | rfl <;> rfl

/-! ## BF, BT, BTCLR, BFSET (R720 to R723) -/

section BitBranch

variable {s : State} {x : BitLoc} {b : Fin 8} (d : Byte) (h : s.readsBit x = true) {v : Bool}
  (hv : ((s.locateBit x).lookBit b s).1.getLsbD b.val = v) (want : Bool)
include h hv

theorem run_branchBit_of :
    let p := (s.locateBit x).lookBit b s
    run (branchBit want x b d) s = .next (if v = want then { p.2 with pc := s.pc + d.signExtend 20 } else p.2) := by
  intro p
  unfold branchBit
  rw [run_bind_of _ (readBit_of b h), hv]
  dsimp only
  split
  · rw [run_modify, State.branch, Loc8.lookBit_pc]
  · rfl

theorem run_branchFlip_stays (hne : v ≠ want) :
    run (branchFlip want x b d) s = .next ((s.locateBit x).lookBit b s).2 := by
  unfold branchFlip
  rw [run_bind_get, run_bind_of _ (readBit_of b h), hv]
  dsimp only
  rw [if_neg hne]
  rfl

theorem run_branchFlip_goes (hw : s.writesBit x = true) (heq : v = want) :
    let l := s.locateBit x
    let p := l.lookBit b s
    run (branchFlip want x b d) s =
      .next { l.storeBit p.1 b (!want) p.2 with pc := s.pc + d.signExtend 20 } := by
  intro l p
  have hmap := (l.lookBit_dataOf b s).sameMap
  have hwrite : l.writable p.2 = true :=
    (Loc8.writable_congr hmap l).trans ((Bool.and_eq_true _ _).mp hw).2
  have hpc : (l.storeBit p.1 b (!want) p.2).pc = s.pc := by
    obtain ⟨_, _, _, _, _, _, e⟩ := (l.lookBit_dataOf b s).trans (l.storeBit_dataOf p.1 b (!want) p.2)
    rw [e]
  unfold branchFlip
  rw [run_bind_get, run_bind_of _ (readBit_of b h), hv]
  dsimp only
  rw [if_pos heq, run_bind_ok _ (guardedSet_of _ hwrite), run_modify, State.branch, hpc]

end BitBranch

/-! ## DBNZ (R740) -/

theorem Loc8.look_psw (l : Loc8) (s : State) : (l.look s).2.psw = s.psw := by
  obtain ⟨i, d, h⟩ := l.look_parts s; rw [h]

theorem State.locateLoop_storedPsw (s : State) (r : LoopReg) (v : Byte) (p : Psw) :
    (s.locateLoop r).storedPsw v p = p := by cases r <;> rfl

theorem exec_dbnz_of {s : State} {r : LoopReg} (d : Byte) :
    let l := s.locateLoop r
    let v := l.look s
    l.readable s = true → l.writable s = true →
    exec (.dbnz r d) s = .next { l.store (v.1 - 1) v.2 with
      pc := if v.1 = 1#8 then s.pc else s.pc + d.signExtend 20 } := by
  intro l v hr hw
  have hdata := (l.look_dataOf s).trans (l.store_dataOf (v.1 - 1) v.2)
  have hpc : (l.store (v.1 - 1) v.2).pc = s.pc := by
    obtain ⟨_, _, _, _, _, _, e⟩ := hdata
    rw [e]
  have hlast : v.1 - 1 ≠ 0x00#8 ↔ ¬v.1 = 1#8 := not_congr (pred_eq_zero_iff v.1)
  have hwrite : l.writable v.2 = true := (Loc8.writable_congr (l.look_dataOf s).sameMap l).trans hw
  show execDbnz r d s = _
  rw [execDbnz, run_bind_get, run_bind_of _ (read8_of hr), run_bind_ok _ (write8_of _ hwrite)]
  by_cases h1 : v.1 = 1#8
  · rw [if_neg (fun hne => hlast.mp hne h1), if_pos h1, ← hpc]
    rfl
  · rw [if_pos (hlast.mpr h1), if_neg h1, ← hpc]
    rfl

/-- Settles O50. -/
theorem bitBranches : Obligations.BitBranches := by
  refine ⟨?_, ?_⟩
  · intro s x b d h l p v goTo
    refine ⟨?_, ?_, fun hv => run_branchFlip_stays d h hv true (by decide),
      fun hv => run_branchFlip_stays d h hv false (by decide), fun hw => ⟨fun hv => ?_, fun hv => ?_⟩,
      l.keeps_lookBit b s _, fun u => State.keeps_changedBit b u s (s.locateBit_inRegs x).inArea⟩
    · refine (run_branchBit_of d h rfl false).trans ?_
      show Host.Outcome.next (if v = false then goTo p.2 else p.2) = _
      cases v <;> rfl
    · refine (run_branchBit_of d h rfl true).trans ?_
      show Host.Outcome.next (if v = true then goTo p.2 else p.2) = _
      cases v <;> rfl
    · exact run_branchFlip_goes d h hv true hw rfl
    · exact run_branchFlip_goes d h hv false hw rfl
  · intro s r d l v hr hw
    have hdata := (l.look_dataOf s).trans (l.store_dataOf (v.1 - 1) v.2)
    refine ⟨_, exec_dbnz_of d hr hw, rfl, ?_, ?_⟩
    · show (l.store (v.1 - 1) v.2).psw = s.psw
      rw [Loc8.store_psw, s.locateLoop_storedPsw, Loc8.look_psw]
    · have hstore := State.keeps_store8 l (v.1 - 1) v.2 (s.locateLoop_inRegs r).inArea
      rw [State.footLoc8_congr (l.look_dataOf s).sameMap] at hstore
      exact ((State.keeps_look l s (s.footLoc8 l)).trans hstore).mono (by simp [Footprint.and]) (by simp [Footprint.and])
        |>.trans_same (State.keeps_rest _ _ _ _ _ _ _)

end Sys2Proof.Machine
end

section
/-! CPU control (O51, O52; 52_cpu_control R750 to R758), the operand error (O53; 60_exceptions R833) and the port check
(O54; 53_chkl_string R780, R781). -/

namespace Sys2Proof

/-! ## SEL, SEL ALT, SWRS, NOP, EI, DI -/

theorem decodeRows_sel (n : Fin 8) (rest : List Byte) :
    decodeRows (0x05#8 :: BitVec.ofNat 8 (0xA8 + n.val) :: rest) = .ok (.sel n) rest := by
  cases n using Machine.eightCases <;> rfl

theorem decodeRows_selAlt (n : Fin 8) (rest : List Byte) :
    decodeRows (0x05#8 :: BitVec.ofNat 8 (0xB8 + n.val) :: rest) = .ok (.selAlt n) rest := by
  cases n using Machine.eightCases <;> rfl

namespace Machine

/-- Settles O51. -/
theorem bankAndInterruptControl : Obligations.BankAndInterruptControl := by
  refine ⟨fun o n rest h => ⟨decode_of_decodeRows h (decodeRows_sel n rest),
    decode_of_decodeRows h (decodeRows_selAlt n rest), ?_, ?_, ?_, ?_⟩, fun s n => ⟨rfl, rfl, rfl, rfl, rfl, rfl⟩⟩ <;>
    exact decode_of_decodeRows h rfl

/-! ## MOV STBC, MOV WDM and LOCATION with complementary bytes -/

theorem complements_not (b : Byte) : complements (~~~b) b = true := by
  rw [complements_iff]
  apply BitVec.eq_of_getLsbD_eq
  intro i hi
  rcases lt_eight_cases hi with rfl | rfl | rfl | rfl | rfl | rfl | rfl | rfl <;> simp

theorem execLocation_of_complements {lo hi : Byte} (h : complements lo hi = true) (s : State) :
    execLocation lo hi s = .next (s.relocate lo).held := by
  rw [execLocation, if_pos h]
  rfl

/-- The first byte of LOCATION is the complement of the second. -/
theorem not_eq_iff (b c : Byte) : ~~~b = c ↔ b = ~~~c := by
  rw [← BitVec.not_inj (x := ~~~b), BitVec.not_not]

theorem State.relocate_parts (s : State) (lo : Byte) :
    s.relocate lo = { s with loc0f := (s.relocate lo).loc0f, locDone := (s.relocate lo).locDone } := by
  unfold State.relocate
  repeat' split
  all_goals rfl

theorem State.relocate_of_done {s : State} (h : s.locDone = true) (lo : Byte) : s.relocate lo = s := if_pos h

theorem State.relocate_of_not_done {s : State} (h : s.locDone = false) (lo : Byte) :
    s.relocate lo =
      if lo = 0xFE#8 then { s with loc0f := false, locDone := true }
      else if lo = 0xFF#8 then { s with loc0f := !s.cfg.locationFixed0, locDone := true }
      else s := by
  rw [State.relocate, if_neg (by simp [h])]

/-- Settles O52. -/
theorem guardedControl : Obligations.GuardedControl := by
  intro s b
  have hc := complements_not b
  refine ⟨⟨s.writeStbc b, ?_, rfl, ?_, rfl⟩, ?_, (s.relocate (~~~b)).held, execLocation_of_complements hc s, ?_, ?_⟩
  · show execMovStbc _ b s = _
    rw [execMovStbc, if_pos hc]
    rfl
  · rintro rfl
    simp [State.writeStbc]
  · show execMovWdm _ b s = _
    rw [execMovWdm, run_bind_get]
    dsimp only
    by_cases hwdt : s.cfg.hasWdt = true
    · rw [if_pos hwdt, if_pos hwdt, if_pos hc]; rfl
    · rw [if_neg hwdt, if_neg hwdt]; rfl
  · rw [State.held, s.relocate_parts]
  · show (s.locDone = true → (s.relocate (~~~b)).locDone = true ∧ (s.relocate (~~~b)).loc0f = s.loc0f) ∧
      (s.locDone = false → b = 0x01#8 → (s.relocate (~~~b)).locDone = true ∧ (s.relocate (~~~b)).loc0f = false) ∧
      (s.locDone = false → b = 0x00#8 →
        (s.relocate (~~~b)).locDone = true ∧ (s.relocate (~~~b)).loc0f = !s.cfg.locationFixed0) ∧
      (s.locDone = false → b ≠ 0x00#8 → b ≠ 0x01#8 →
        (s.relocate (~~~b)).locDone = false ∧ (s.relocate (~~~b)).loc0f = s.loc0f)
    refine ⟨fun hd => ?_, fun hd hb => ?_, fun hd hb => ?_, fun hd h0 h1 => ?_⟩
    · rw [State.relocate_of_done hd]
      exact ⟨hd, rfl⟩
    · rw [State.relocate_of_not_done hd, hb, if_pos (by decide)]
      exact ⟨rfl, rfl⟩
    · rw [State.relocate_of_not_done hd, hb, if_neg (by decide), if_pos (by decide)]
      exact ⟨rfl, rfl⟩
    · rw [State.relocate_of_not_done hd, if_neg (fun h => h1 ((not_eq_iff b _).mp h)),
        if_neg (fun h => h0 ((not_eq_iff b _).mp h))]
      exact ⟨hd, rfl⟩

/-! ## Bytes that are not complements (R833) -/

/-- What the acknowledgment of an interrupt may change. -/
theorem State.acknowledge_parts (s : State) (vec : Nat) (ret : PAddr) :
    ∃ p r m i, s.acknowledge vec ret =
      { s with pc := p, psw := { s.psw with ie := false }, sp := (s.sp - 4) &&& s.cfg.spMask,
               ram := r, mem := m, io := i } := by
  obtain ⟨r, m, i, h⟩ := s.store16_parts (s.sp - 4) (ret.extractLsb' 0 16)
  obtain ⟨r', m', i', h'⟩ :=
    State.store16_parts { s with ram := r, mem := m, io := i } (s.sp - 2) (s.psw.frame ret)
  obtain ⟨j, hj⟩ := State.look16_io
    (State.setSp { s with ram := r', mem := m', io := i' } (s.sp - 4)) (BitVec.ofNat 24 vec)
  exact ⟨_, r', m', j, by rw [State.acknowledge, h, h', hj]; rfl⟩

theorem operandError_of {s : State} (hw : s.writableN (s.sp - 4) 4 = true) (hr : s.readableN 0x3C 2 = true) :
    operandError s = .ok ((), s.acknowledge 0x3C (if s.cfg.operrSavesNext then s.pc else s.pc - 4)) := by
  unfold operandError
  rw [bind_get]
  exact acknowledge_of _ hw hr

/-- Settles O53. -/
theorem operandErrorTraps : Obligations.OperandErrorTraps := by
  intro s a b hne hw hr t
  have herr : operandError s = .ok ((), t) := operandError_of hw hr
  have hc : ¬complements a b = true := fun h => hne ((complements_iff a b).mp h)
  refine ⟨?_, ?_, fun hwdt => ?_, ?_⟩
  · show execMovStbc a b s = _
    rw [execMovStbc, if_neg hc]
    exact run_of_ok herr
  · show execLocation a b s = _
    rw [execLocation, if_neg hc, run_bind_ok _ herr]
    rfl
  · show execMovWdm a b s = _
    rw [execMovWdm, run_bind_get]
    dsimp only
    rw [if_pos hwdt, if_neg hc]
    exact run_of_ok herr
  · obtain ⟨p, r, m, i, h⟩ := s.acknowledge_parts 0x3C (if s.cfg.operrSavesNext then s.pc else s.pc - 4)
    have ht : t = _ := h
    rw [ht]
    exact ⟨rfl, rfl, rfl, rfl, rfl⟩

/-! ## CHKL and CHKLA (R780, R781) -/

/-- Settles O54: both run straight through, with the host's answer for the history before the check. -/
theorem portCheck : Obligations.PortCheck := by
  intro s o out v
  have hcheck : pinCheck o s = .ok (v, s.tell (.pinCheck o)) := rfl
  constructor
  · show execChkl o s = _
    rw [execChkl, run_bind_ok _ hcheck]
    rfl
  · show execChkla o s = _
    rw [execChkla, run_bind_ok _ hcheck]
    rfl

end Machine

end Sys2Proof
end

section
/-! What instructions do to the control state (O10) and to the host's side (O11), by induction on the updates of an
instruction's run. -/

namespace Sys2Proof.Machine

/-! ## An update of the data -/

/-- The record of the exchanges with the host, and the count of free values, only grow. -/
def State.HostGrows (s t : State) : Prop := s.draws ≤ t.draws ∧ ∃ l, t.io = l ++ s.io

theorem State.HostGrows.refl (s : State) : s.HostGrows s := ⟨Nat.le_refl _, [], rfl⟩

theorem State.HostGrows.trans {s t u : State} (h : s.HostGrows t) (g : t.HostGrows u) : s.HostGrows u := by
  obtain ⟨hd, l, hl⟩ := h
  obtain ⟨gd, k, hk⟩ := g
  exact ⟨Nat.le_trans hd gd, k ++ l, by rw [hk, hl, List.append_assoc]⟩

theorem State.hostGrows_store (s : State) (a : Long) (v : Byte) : s.HostGrows (s.store a v) := by
  rw [State.store]
  cases s.place a with
  | sfr o =>
    rw [State.storeAt]
    split
    · exact .refl s
    · exact ⟨Nat.le_refl _, [_], rfl⟩
  | _ => exact .refl s

/-- The control state, the host's inputs and the product are not data. -/
structure State.SameControlState (s t : State) : Prop where
  ispr : t.ispr = s.ispr
  loc0f : t.loc0f = s.loc0f
  locDone : t.locDone = s.locDone
  hold : t.hold = s.hold
  stopped : t.stopped = s.stopped
  deadlocked : t.deadlocked = s.deadlocked
  afterReset : t.afterReset = s.afterReset
  inputs : t.inputs = s.inputs
  cfg : t.cfg = s.cfg

theorem State.DataUpdate.sameControlState {s t : State} (h : s.DataUpdate t) : s.SameControlState t := by
  cases h with
  | store a v =>
    obtain ⟨_, _, _, h⟩ := s.store_parts a v
    rw [h]
    constructor <;> rfl
  | _ => constructor <;> rfl

theorem State.DataUpdate.hostGrows {s t : State} (h : s.DataUpdate t) : s.HostGrows t := by
  cases h with
  | store a v => exact s.hostGrows_store a v
  | tell e => exact ⟨Nat.le_refl _, [e], rfl⟩
  | draw => exact ⟨Nat.le_succ _, [], rfl⟩
  | _ => exact ⟨Nat.le_refl _, [], rfl⟩

/-! ## ISPR (R840, R843) -/

theorem State.Updates.ispr {s t : State} (h : s.Updates t) : t.ispr = s.ispr := by
  induction h with
  | refl => rfl
  | tail _ hupdate ih => rw [hupdate.sameControlState.ispr, ih]

/-- No update of another instruction than RETI and RETCS touches ISPR. -/
theorem InstrUpdates.ispr {i : Instr} {s t : State} (h : InstrUpdates i s t)
    (hi : ¬(i = .reti ∨ ∃ w, i = .retcs w)) : t.ispr = s.ispr := by
  induction h with
  | refl => rfl
  | tail _ hupdate ih =>
    rw [← ih]
    rcases hupdate with hdata | hown
    · exact hdata.sameControlState.ispr
    · cases hown with
      | ispr hret => exact absurd hret hi
      | location => rw [State.relocate_parts]
      | _ => rfl

theorem execReti_ispr {s t : State} (h : execReti s = .next t) : t.ispr = s.ispr.clearHighest := by
  rw [execReti, run_next] at h
  obtain ⟨_, u, hreturn, hclear⟩ := bind_ok.mp h
  cases hclear
  exact congrArg Ispr.clearHighest (OnlyData.returnFromStack hreturn).ispr

theorem exec_ispr {i : Instr} {s t : State} (h : exec i s = .next t) :
    t.ispr = if i = .reti ∨ ∃ w, i = .retcs w then s.ispr.clearHighest else s.ispr := by
  split
  · next hret =>
    rcases hret with rfl | ⟨w, rfl⟩
    · exact execReti_ispr h
    · cases h; rfl
  · next hi => exact (exec_updates h).ispr hi

/-- The flags of ISPR, the highest first. -/
def Ispr.flags (i : Ispr) : List Bool := [i.nmi, i.wdt, i.l0, i.l1, i.l2, i.l3]

theorem Ispr.flags_add (i : Ispr) (n : Fin 4) : (i.add n).flags = i.flags.set (2 + n.val) true := by
  cases n using fourCases <;> rfl

theorem Ispr.flags_clearHighest (i : Ispr) : i.clearHighest.flags = i.flags.set (i.flags.findIdx id) false := by
  obtain ⟨nmi, wdt, l0, l1, l2, l3⟩ := i
  cases nmi
  case true => rfl
  cases wdt
  case true => rfl
  cases l0
  case true => rfl
  cases l1
  case true => rfl
  cases l2
  case true => rfl
  cases l3 <;> rfl

theorem Ispr.allows_iff (i : Ispr) (n : Fin 4) :
    i.allows n = true ↔ ∀ k ≤ 2 + n.val, i.flags[k]? ≠ some true := by
  have upTo (m : Nat) (p : Nat → Prop) : (∀ k ≤ m + 1, p k) ↔ (∀ k ≤ m, p k) ∧ p (m + 1) :=
    ⟨fun h => ⟨fun k hk => h k (by omega), h _ (Nat.le_refl _)⟩,
      fun h k hk => (Nat.le_succ_iff.mp hk).elim (h.1 k) fun e => e ▸ h.2⟩
  cases n using fourCases <;> simp [Ispr.allows, Ispr.flags, upTo, and_assoc]

/-! ## The internal data area and HOLD (20_memory R101, 10_state R56) -/

/-- The internal data area and LOC_DONE are as before, or the one LOCATION after reset has set them. -/
def LocatedOnce (i : Instr) (s t : State) : Prop :=
  (t.loc0f = s.loc0f ∧ t.locDone = s.locDone) ∨
  (s.locDone = false ∧ t.locDone = true ∧
    (i = .location 0xFE#8 0x01#8 ∧ t.loc0f = false ∨
      i = .location 0xFF#8 0x00#8 ∧ t.loc0f = !s.cfg.locationFixed0))

theorem eq_not_of_xor {lo hi : Byte} (h : lo ^^^ hi = 0xFF#8) : hi = lo ^^^ 0xFF#8 := by
  rw [← h, ← BitVec.xor_assoc, BitVec.xor_self, BitVec.zero_xor]

theorem locatedOnce_relocate {s : State} {lo hi : Byte} (h : lo ^^^ hi = 0xFF#8) :
    LocatedOnce (.location lo hi) s (s.relocate lo) := by
  cases hd : s.locDone with
  | true => rw [State.relocate_of_done hd]; exact .inl ⟨rfl, rfl⟩
  | false =>
    rw [State.relocate_of_not_done hd, eq_not_of_xor h]
    by_cases h0 : lo = 0xFE#8
    · subst h0; exact .inr ⟨hd, rfl, .inl ⟨rfl, rfl⟩⟩
    by_cases h1 : lo = 0xFF#8
    · subst h1; exact .inr ⟨hd, rfl, .inr ⟨rfl, rfl⟩⟩
    rw [if_neg h0, if_neg h1]
    exact .inl ⟨rfl, rfl⟩

theorem InstrUpdates.locatedOnce {i : Instr} {s t : State} (h : InstrUpdates i s t) : LocatedOnce i s t := by
  induction h with
  | refl => exact .inl ⟨rfl, rfl⟩
  | @tail t u hst hupdate ih =>
    have hcfg : t.cfg = s.cfg := InstrUpdates.stbc_wdm hst |>.1
    have keep (h0 : u.loc0f = t.loc0f) (h1 : u.locDone = t.locDone) : LocatedOnce i s u := by
      rw [LocatedOnce, h0, h1]; exact ih
    rcases hupdate with hdata | hown
    · exact keep hdata.sameControlState.loc0f hdata.sameControlState.locDone
    · cases hown with
      | @location _ lo hi hc =>
        rcases ih with ⟨h0, h1⟩ | ⟨hs, ht, hset⟩
        · have hnow := locatedOnce_relocate (s := t) hc
          rw [LocatedOnce, h0, h1, hcfg] at hnow
          exact hnow
        · rw [State.relocate_of_done ht]
          exact .inr ⟨hs, ht, hset⟩
      | _ => exact keep rfl rfl

theorem InstrUpdates.hold {i : Instr} {s t : State} (h : InstrUpdates i s t) :
    t.hold = s.hold ∨
      t.hold = true ∧ (i = .ei ∨ i = .di ∨ (∃ a b, i = .location a b) ∨ ∃ x, i = .mov .pswl x) := by
  induction h with
  | refl => exact .inl rfl
  | tail _ hupdate ih =>
    rcases hupdate with hdata | hown
    · rw [hdata.sameControlState.hold]; exact ih
    · cases hown with
      | hold hi => exact .inr ⟨rfl, hi⟩
      | location => rw [State.relocate_parts]; exact ih
      | _ => exact ih

/-- Settles O10. -/
theorem controlStateChangedByItsOwn : Obligations.ControlStateChangedByItsOwn :=
  ⟨fun _ _ _ h => exec_ispr h,
   fun _ _ _ h hne => (exec_updates h).locatedOnce.resolve_left fun hsame => hne.elim (· hsame.1) (· hsame.2),
   fun _ _ _ h hne => (exec_updates h).hold.resolve_left hne,
   fun i n => ⟨i.flags_add n, i.flags_clearHighest, i.allows_iff n⟩⟩

/-! ## The host's side -/

/-- What an instruction never touches, and that only MOV STBC stops the CPU. -/
structure HostKept (i : Instr) (s t : State) : Prop where
  inputs : t.inputs = s.inputs
  cfg : t.cfg = s.cfg
  afterReset : t.afterReset = s.afterReset
  deadlocked : t.deadlocked = s.deadlocked
  grows : s.HostGrows t
  stopped : t.stopped = s.stopped ∨ t.stopped = true ∧ ∃ nb b, i = .movStbc nb b

theorem HostKept.refl (i : Instr) (s : State) : HostKept i s s :=
  ⟨rfl, rfl, rfl, rfl, .refl s, .inl rfl⟩

theorem HostKept.trans {i : Instr} {s t u : State} (h : HostKept i s t) (g : HostKept i t u) : HostKept i s u where
  inputs := g.inputs.trans h.inputs
  cfg := g.cfg.trans h.cfg
  afterReset := g.afterReset.trans h.afterReset
  deadlocked := g.deadlocked.trans h.deadlocked
  grows := h.grows.trans g.grows
  stopped := g.stopped.elim (fun e => by rw [e]; exact h.stopped) .inr

theorem State.DataUpdate.hostKept {s t : State} (h : s.DataUpdate t) (i : Instr) : HostKept i s t where
  inputs := h.sameControlState.inputs
  cfg := h.sameControlState.cfg
  afterReset := h.sameControlState.afterReset
  deadlocked := h.sameControlState.deadlocked
  grows := h.hostGrows
  stopped := .inl h.sameControlState.stopped

theorem OwnUpdate.hostKept {i : Instr} {s t : State} (h : OwnUpdate i s t) : HostKept i s t := by
  have tells (e : IoEvent) : ∃ l, e :: s.io = l ++ s.io := ⟨[e], rfl⟩
  cases h with
  | @stbc _ nb b =>
    refine ⟨rfl, rfl, rfl, rfl, ⟨Nat.le_refl _, tells _⟩, ?_⟩
    cases hs : (s.writeStbc b).stopped with
    | true => exact .inr ⟨rfl, nb, b, rfl⟩
    | false =>
      have hs' : ((s.stopped || b == 0x02#8) || Config.stbcStops s.io b) = false := hs
      rw [Bool.or_eq_false_iff, Bool.or_eq_false_iff] at hs'
      exact .inl hs'.1.1.symm
  | wdm => exact ⟨rfl, rfl, rfl, rfl, ⟨Nat.le_refl _, tells _⟩, .inl rfl⟩
  | location =>
    rw [State.relocate_parts]
    exact ⟨rfl, rfl, rfl, rfl, ⟨Nat.le_refl _, [], rfl⟩, .inl rfl⟩
  | _ => exact ⟨rfl, rfl, rfl, rfl, ⟨Nat.le_refl _, [], rfl⟩, .inl rfl⟩

theorem InstrUpdates.hostKept {i : Instr} {s t : State} (h : InstrUpdates i s t) : HostKept i s t := by
  induction h with
  | refl => exact .refl i s
  | tail _ hupdate ih => exact ih.trans (hupdate.elim (·.hostKept i) (·.hostKept))

/-- Settles O11. -/
theorem hostSideKept : Obligations.HostSideKept := by
  intro i s t h
  have k := (exec_updates h).hostKept
  exact ⟨k.inputs, k.cfg, k.afterReset, k.deadlocked, k.grows.1, k.grows.2, fun hne => k.stopped.resolve_left hne⟩

end Sys2Proof.Machine
end

section
/-! One pass of the block instructions (O56, O57; 53_chkl_string R783 to R795): the body of each, and what ends a pass. -/

namespace Sys2Proof.Machine

/-! ## The bodies (R784 to R795) -/

theorem State.look_sameMap (s : State) (a : Long) : s.SameMap (s.look a).2 := (Loc8.look_dataOf (.mem a) s).sameMap

theorem writeByte_after {s t : State} (h : s.SameMap t) {a : Long} (v : Byte) (hw : s.writable a = true) :
    writeByte a v t = .ok ((), t.store a v) :=
  writeByte_of v ((State.writable_congr h.1 h.2 a).trans hw)

theorem readByte_after {s t : State} (h : s.SameMap t) {a : Long} (hr : s.readable a = true) :
    readByte a t = .ok (t.look a) :=
  readByte_of ((State.readable_congr h.1 h.2 a).trans hr)

/-- The byte and the state of a read one by one. -/
theorem readByte_parts {s t : State} (h : s.SameMap t) {a : Long} (hr : s.readable a = true) :
    readByte a t = .ok ((t.look a).1, (t.look a).2) :=
  (readByte_after h hr).trans (congrArg Except.ok (Prod.eta _).symm)

/-- Reading a byte leaves every register. -/
theorem State.rg_look (s : State) (a : Long) (g : RG) : (s.look a).2.rg g = s.rg g := by
  obtain ⟨i, h⟩ := s.look_io a
  rw [h]
  rfl

theorem State.a_look (s : State) (a : Long) : (s.look a).2.a = s.a := by
  obtain ⟨i, h⟩ := s.look_io a
  rw [h]
  rfl

theorem State.psw_look (s : State) (a : Long) : (s.look a).2.psw = s.psw := by
  obtain ⟨i, h⟩ := s.look_io a
  rw [h]

/-- The flags of a difference, in the state after its operands were read. -/
def State.compared (u : State) (p : Psw) (r : Arith 8) : State :=
  { u with psw := { p with s := r.s, z := r.z, ac := r.ac, pv := r.v, cy := r.cy } }

theorem run_endPass (block : Bool) (d : Dir) (stop : Psw → Bool) (s : State) :
    run (endPass block d stop) s = .next (s.endPass block d stop) := rfl

/-! A comparison and an exchange of blocks, by the answers of their accesses: `m`, `v` read, in the states `t`, `u`. -/

section Bodies

variable {s t u : State} {m v : Byte}

theorem compareA_of (hm : readByte (s.rg .tde) s = .ok (m, t)) :
    compareA s = .ok ((), t.compared t.psw (subN m t.a false)) := by
  unfold compareA
  rw [bind_get, bind_of _ hm, bind_get]
  rfl

theorem compareBlock_of (hm : readByte (s.rg .tde) s = .ok (m, t)) (hv : readByte (t.rg .whl) t = .ok (v, u)) :
    compareBlock s = .ok ((), u.compared u.psw (subN m v false)) := by
  unfold compareBlock
  rw [bind_get, bind_of _ hm, bind_get, bind_of _ hv]
  rfl

theorem execXchbk_of (d : Dir) {w x : State} (hm : readByte (s.rg .tde) s = .ok (m, t))
    (hv : readByte (s.rg .whl) t = .ok (v, u)) (hw : writeByte (s.rg .tde) v u = .ok ((), w))
    (hx : writeByte (w.rg .whl) m w = .ok ((), x)) : execXchbk d s = .next (x.endPass true d never) := by
  rw [execXchbk, run_bind_get, run_bind_ok _ hm, run_bind_ok _ hv, run_bind_ok _ hw, run_bind_get, run_bind_ok _ hx]
  rfl

theorem run_compareA_endPass (block : Bool) (d : Dir) (stop : Psw → Bool) (h : compareA s = .ok ((), t)) :
    run (do compareA; endPass block d stop) s = .next (t.endPass block d stop) := run_bind_ok _ h

theorem run_compareBlock_endPass (block : Bool) (d : Dir) (stop : Psw → Bool) (h : compareBlock s = .ok ((), t)) :
    run (do compareBlock; endPass block d stop) s = .next (t.endPass block d stop) := run_bind_ok _ h

theorem compareA_look (he : s.readable (s.rg .tde) = true) :
    compareA s = .ok ((), (s.look (s.rg .tde)).2.compared s.psw (subN (s.look (s.rg .tde)).1 s.a false)) := by
  rw [compareA_of (readByte_parts (.refl s) he), State.psw_look, State.a_look]

theorem compareBlock_look (he : s.readable (s.rg .tde) = true) (hf : s.readable (s.rg .whl) = true) :
    compareBlock s = .ok ((), ((s.look (s.rg .tde)).2.look (s.rg .whl)).2.compared s.psw
      (subN (s.look (s.rg .tde)).1 ((s.look (s.rg .tde)).2.look (s.rg .whl)).1 false)) := by
  have hv := readByte_parts (s.look_sameMap (s.rg .tde)) hf
  rw [compareBlock_of (readByte_parts (.refl s) he) (by rw [State.rg_look]; exact hv), State.psw_look, State.psw_look]

theorem execXchbk_look (d : Dir) (he : s.readable (s.rg .tde) = true) (hf : s.readable (s.rg .whl) = true)
    (hw : s.writable (s.rg .tde) = true) :
    let x := s.look (s.rg .tde)
    let y := x.2.look (s.rg .whl)
    let w := y.2.store (s.rg .tde) y.1
    w.writable (w.rg .whl) = true → execXchbk d s = .next ((w.store (w.rg .whl) x.1).endPass true d never) :=
  fun hwrite => execXchbk_of d (readByte_parts (.refl s) he) (readByte_parts (s.look_sameMap _) hf)
    (writeByte_after ((s.look_sameMap _).trans (State.look_sameMap _ _)) _ hw) (writeByte_of _ hwrite)

end Bodies

/-- Settles O56. -/
theorem blockPass : Obligations.BlockPass := by
  intro s d e f never flags
  refine ⟨fun he => ?_, fun hr hw => ?_, fun hf hw => ?_, fun hr hf hw => ?_, fun hr => ?_, fun hr hf => ?_⟩
  · show execMovm d s = _
    rw [execMovm, run_bind_get, run_bind_ok _ (writeByte_of _ he)]
    exact run_endPass false d never _
  · show execXchm d s = _
    rw [execXchm, run_bind_get, run_bind_of _ (readByte_of hr),
      run_bind_ok _ (writeByte_after (s.look_sameMap e) _ hw), run_bind_modify]
    exact run_endPass false d never _
  · show execMovbk d s = _
    rw [execMovbk, run_bind_get, run_bind_of _ (readByte_of hf),
      run_bind_ok _ (writeByte_after (s.look_sameMap f) _ hw)]
    exact run_endPass true d never _
  · exact execXchbk_look d hr hf hw
  · have body (stop : Psw → Bool) := run_compareA_endPass false d stop (compareA_look hr)
    exact ⟨body _, body _, body _, body _⟩
  · have body (stop : Psw → Bool) := run_compareBlock_endPass true d stop (compareBlock_look hr hf)
    exact ⟨body _, body _, body _, body _⟩

/-! ## The end of a pass (R783) -/

/-- TDE, and WHL for the block forms, one element on. -/
def State.pointersMoved (s : State) (block : Bool) (d : Dir) : State :=
  let t := s.setRg .tde (stepBy d (s.rg .tde))
  if block then t.setRg .whl (stepBy d (t.rg .whl)) else t

section Moved

variable (s : State) (block : Bool) (d : Dir)

theorem State.pointersMoved_true :
    s.pointersMoved true d = (s.setRg .tde (stepBy d (s.rg .tde))).setRg .whl (stepBy d (s.rg .whl)) := by
  have other : (s.setRg .tde (stepBy d (s.rg .tde))).rg .whl = s.rg .whl := State.rg_setRg_other _ (by decide)
  rw [← other]
  rfl

theorem State.pointersMoved_parts : ∃ r x, s.pointersMoved block d = { s with ram := r, vutw := x } := by
  obtain ⟨r, x, h⟩ := State.setRg_parts s .tde (stepBy d (s.rg .tde))
  cases block
  · exact ⟨r, x, h⟩
  · obtain ⟨r', x', h'⟩ := State.setRg_parts { s with ram := r, vutw := x } .whl (stepBy d (s.rg .whl))
    exact ⟨r', x', by rw [State.pointersMoved_true, h, h']⟩

theorem State.setRg_wf (g : RG) (l : Long) (h : s.ram.wf = true) : (s.setRg g l).ram.wf = true :=
  State.setRam16_wf _ h

theorem State.pointersMoved_wf (h : s.ram.wf = true) : (s.pointersMoved block d).ram.wf = true := by
  cases block
  · exact State.setRg_wf s _ _ h
  · rw [State.pointersMoved_true]; exact State.setRg_wf _ _ _ (State.setRg_wf s _ _ h)

theorem State.pointersMoved_tde (h : s.ram.wf = true) : (s.pointersMoved block d).rg .tde = stepBy d (s.rg .tde) := by
  cases block
  · exact State.rg_setRg .tde _ h
  · rw [State.pointersMoved_true, State.rg_setRg_other _ (by decide), State.rg_setRg .tde _ h]

theorem State.pointersMoved_whl (h : s.ram.wf = true) :
    (s.pointersMoved block d).rg .whl = if block then stepBy d (s.rg .whl) else s.rg .whl := by
  cases block
  · exact State.rg_setRg_other _ (by decide)
  · rw [State.pointersMoved_true, State.rg_setRg .whl _ (State.setRg_wf s _ _ h), if_pos rfl]

theorem State.pointersMoved_c : (s.pointersMoved block d).r8 s.regC = s.r8 s.regC := by
  have apart := s.regC_pair_ne.2
  cases block
  · exact State.r8_setRg_other _ (apart .tde)
  · rw [State.pointersMoved_true, State.r8_setRg_other _ (apart .whl), State.r8_setRg_other _ (apart .tde)]

theorem State.keeps_pointersMoved : s.keeps (s.pointersMoved block d)
    ((s.footRg .tde).and (if block then s.footRg .whl else Footprint.nothing)) := by
  have h := s.keeps_setRg .tde (stepBy d (s.rg .tde))
  cases block
  · exact h.trans (State.keeps.refl _ _)
  · rw [State.pointersMoved_true]; exact h.trans (State.keeps_setRg (s.setRg .tde _) .whl _)

/-- The pointers moved and C counted down: a pass before the decision on another. -/
def State.passCounted : State := (s.pointersMoved block d).countedC

theorem State.passCounted_parts : ∃ r x, s.passCounted block d = { s with ram := r, vutw := x } := by
  obtain ⟨r, x, h⟩ := s.pointersMoved_parts block d
  exact ⟨_, x, by rw [State.passCounted, State.countedC, h]; rfl⟩

theorem State.endPass_eq (stop : Psw → Bool) :
    s.endPass block d stop =
      if (s.passCounted block d).r8 s.regC = 0x00#8 ∨ stop s.psw = true then s.passCounted block d
      else (s.passCounted block d).again 2 := by
  obtain ⟨r, x, h⟩ := s.passCounted_parts block d
  have hpsw : (s.passCounted block d).psw = s.psw := by rw [h]
  have hreg : (s.passCounted block d).regC = s.regC := by rw [State.regC, hpsw]; rfl
  show (if (s.passCounted block d).r8 (s.passCounted block d).regC = 0x00#8 ∨
    stop (s.passCounted block d).psw = true then _ else _) = _
  rw [hreg, hpsw]
  rfl

/-- The registers and bytes a pass leaves, whatever the decision. -/
theorem State.endPass_parts (stop : Psw → Bool) :
    s.endPass block d stop = { s.passCounted block d with pc := (s.endPass block d stop).pc } := by
  rw [State.endPass_eq]
  split <;> rfl

theorem State.passCounted_rg (g : RG) : (s.passCounted block d).rg g = (s.pointersMoved block d).rg g :=
  State.rg_setR8_other _ ((State.regC_pair_ne _).2 g)

theorem State.passCounted_c (h : s.ram.wf = true) : (s.passCounted block d).r8 s.regC = s.r8 s.regC - 1 := by
  have hreg : (s.pointersMoved block d).regC = s.regC := by
    obtain ⟨r, x, e⟩ := s.pointersMoved_parts block d
    rw [e]; rfl
  rw [State.passCounted, State.countedC, hreg, State.r8_setR8 _ _ (s.pointersMoved_wf block d h),
    State.pointersMoved_c]

theorem State.keeps_passCounted : s.keeps (s.passCounted block d)
    (((s.footRg .tde).and (if block then s.footRg .whl else Footprint.nothing)).and (s.footR8 s.regC)) := by
  have hc := State.keeps_setR8 (s.pointersMoved block d) (s.pointersMoved block d).regC
    ((s.pointersMoved block d).r8 (s.pointersMoved block d).regC - 1)
  have hfoot : (s.pointersMoved block d).footR8 (s.pointersMoved block d).regC = s.footR8 s.regC := by
    obtain ⟨r, x, e⟩ := s.pointersMoved_parts block d
    rw [e]; rfl
  rw [hfoot] at hc
  exact (s.keeps_pointersMoved block d).trans hc

end Moved

theorem stepBy_eq (d : Dir) (l : Long) : stepBy d l = if d = .inc then l + 1 else l - 1 := by cases d <;> rfl

/-- Settles O57. -/
theorem blockPassEnds : Obligations.BlockPassEnds := by
  intro s block d stop hinv t move
  have hwf := hinv.ramForm
  obtain ⟨r, x, hparts⟩ := s.passCounted_parts block d
  have ht : t = { s.passCounted block d with pc := t.pc } := s.endPass_parts block d stop
  have hmove : stepBy d = move := funext (stepBy_eq d)
  have hlast : s.r8 s.regC - 1 = 0x00#8 ↔ s.r8 s.regC = 1#8 := pred_eq_zero_iff _
  refine ⟨?_, ?_, ?_, ?_, ?_, ?_⟩
  · rw [ht, ← hmove, ← s.pointersMoved_tde block d hwf]
    exact s.passCounted_rg block d .tde
  · rw [ht, ← hmove, ← s.pointersMoved_whl block d hwf]
    exact s.passCounted_rg block d .whl
  · rw [ht]
    exact s.passCounted_c block d hwf
  · show (s.endPass block d stop).pc = _
    rw [State.endPass_eq, s.passCounted_c block d hwf, hparts]
    simp only [hlast]
    split <;> rfl
  · rw [ht, hparts]
  · rw [ht]
    exact (s.keeps_passCounted block d).trans_same (State.keeps_rest _ _ _ _ _ _ _)

end Sys2Proof.Machine
end

section
/-! PUSH and POP of the PSW, an sfr, an sfrp and a 24-bit register (O39; 49_stack R602 to R604, R606, R608 to R610, R612),
with the rules of SP and of ranges of addresses that the other stack instructions use too. -/

namespace Sys2Proof.Machine

/-! ## SP, and the accesses beside it -/

section Sp

variable (s : State) (v : Long)

theorem State.setSp_sameMap : s.SameMap (s.setSp v) := ⟨rfl, rfl⟩

theorem State.keeps_setSp (f : Footprint) : s.keeps (s.setSp v) f :=
  s.keeps_rest s.pc s.psw _ s.io s.draws f

@[simp] theorem State.peek_setSp (a : Long) : (s.setSp v).peek a = s.peek a :=
  State.peek_congr (s := s) (t := s.setSp v) rfl rfl rfl rfl a

theorem State.look16_sameMap (a : Long) : s.SameMap (s.look16 a).2 := by
  obtain ⟨i, h⟩ := s.look16_io a; rw [h]; exact ⟨rfl, rfl⟩

theorem State.keeps_look16 (a : Long) (f : Footprint) : s.keeps (s.look16 a).2 f := by
  obtain ⟨i, h⟩ := s.look16_io a; rw [h]; exact s.keeps_rest _ _ _ _ _ f

theorem State.keeps_look24 (a : Long) (f : Footprint) : s.keeps (s.look24 a).2 f := by
  obtain ⟨i, h⟩ := s.look24_io a; rw [h]; exact s.keeps_rest _ _ _ _ _ f

end Sp

/-- An access that leaves every byte, then one that writes those of `f`. -/
theorem State.keeps.after_same {s t u : State} {f : Footprint} (h : ∀ g, s.keeps t g) (k : t.keeps u f) :
    s.keeps u f :=
  ((h f).trans k).mono (by simp [Footprint.and]) (by simp [Footprint.and])

theorem State.readableN_two {s : State} {a : Long} :
    s.readableN a 2 = true ↔ s.readable a = true ∧ s.readable (a + 1) = true := by
  simp [State.readableN, List.range_succ]

/-! ## PUSH (R602 to R604, R606) -/

section Push

variable {s : State}

theorem State.keeps_push24 (s : State) (l : Long) : s.keeps (s.push24 l) ⟨bytesAt (s.sp - 3) 3, []⟩ :=
  (s.keeps_store24 (s.sp - 3) l).trans_same (State.keeps_setSp _ _ _)

/-- A word pushed after an access that left SP and the map. -/
theorem push16_after {t : State} (hmap : s.SameMap t) (hsp : t.sp = s.sp) (w : Word)
    (h : s.writableN (s.sp - 2) 2 = true) :
    push16 w t = .ok ((), (t.store16 (s.sp - 2) w).setSp (s.sp - 2)) := by
  rw [push16_of w (by rw [hsp, State.writableN_congr hmap.1 hmap.2]; exact h), State.push16, hsp]

theorem push24_after {t : State} (hmap : s.SameMap t) (hsp : t.sp = s.sp) (l : Long)
    (h : s.writableN (s.sp - 3) 3 = true) :
    push24 l t = .ok ((), (t.store24 (s.sp - 3) l).setSp (s.sp - 3)) := by
  rw [push24_of l (by rw [hsp, State.writableN_congr hmap.1 hmap.2]; exact h), State.push24, hsp]

theorem exec_push_psw (h : s.writableN (s.sp - 2) 2 = true) :
    ∃ n : BitVec 4, exec (.push .psw) s =
      .next (((({ s with draws := s.draws + 1 } : State).store (s.sp - 2) s.psw.low).store (s.sp - 1)
        (s.psw.high n)).setSp (s.sp - 2)) := by
  obtain ⟨hlow, hhigh⟩ := word_parts s.lookPswh.1 s.psw.low
  refine ⟨(Config.undef s.draws).extractLsb' 0 4, run_guardedSet.mpr ⟨h, ?_⟩⟩
  dsimp only [State.lookPsw]
  rw [hlow, hhigh]
  rfl

theorem State.keeps_pushedPsw (s : State) (lo hi : Byte) :
    s.keeps (((({ s with draws := s.draws + 1 } : State).store (s.sp - 2) lo).store (s.sp - 1) hi).setSp (s.sp - 2))
      ⟨bytesAt (s.sp - 2) 2, []⟩ := by
  have hdraw : s.keeps { s with draws := s.draws + 1 } Footprint.nothing := s.keeps_rest _ _ _ _ _ _
  have hbytes := (hdraw.trans (State.keeps_store _ (s.sp - 2) lo)).trans (State.keeps_store _ (s.sp - 1) hi)
  have hnext : s.sp - 1 = s.sp - 2 + 1 := by bv_omega
  refine (hbytes.mono ?_ (by simp [Footprint.and, Footprint.nothing])).trans_same (State.keeps_setSp _ _ _)
  intro a ha
  simp only [Footprint.and, Footprint.nothing, mem_bytesAt_one, List.nil_append, List.mem_append] at ha
  exact (mem_bytesAt_two _ a).mpr (hnext ▸ ha)

theorem exec_push_sfrp {o : Byte} (h : s.writableN (s.sp - 2) 2 = true) (hr : s.reads16 (.sfr o) = true) :
    let v := (s.locate16 (.sfr o)).1.look s
    exec (.push (.sfrp o)) s = .next ((v.2.store16 (s.sp - 2) v.1).setSp (s.sp - 2)) := by
  obtain ⟨i, d, hv⟩ := (s.locate16 (.sfr o)).1.look_parts s
  have hread : (s.locate16 (.sfr o)).1.readable s = true := hr
  have hloc : loc16 (.sfr o) s = .ok ((s.locate16 (.sfr o)).1, s) := loc16_of rfl
  show execPush (.sfrp o) s = _
  unfold execPush
  rw [run_bind_ok _ hloc, run_bind_of _ (read16_of hread)]
  exact run_of_ok (push16_after ((s.locate16 (.sfr o)).1.look_dataOf s).sameMap (by rw [hv]) _ h)

theorem exec_push_sfr {o : Byte} (h : s.writable (s.sp - 1) = true) (hr : s.reads8 (.sfr o) = true) :
    let v := (s.locate8 (.sfr o)).1.look s
    exec (.push (.sfr o)) s = .next ((v.2.store (s.sp - 1) v.1).setSp (s.sp - 1)) := by
  obtain ⟨i, d, hv⟩ := (s.locate8 (.sfr o)).1.look_parts s
  have hread : (s.locate8 (.sfr o)).1.readable s = true := hr
  have hloc : loc8 (.sfr o) s = .ok ((s.locate8 (.sfr o)).1, s) := loc8_of rfl
  have hsp : ((s.locate8 (.sfr o)).1.look s).2.sp = s.sp := by rw [hv]
  show execPush (.sfr o) s = _
  unfold execPush
  rw [run_bind_ok _ hloc, run_bind_of _ (read8_of hread), run_bind_get, hsp,
    run_bind_ok _ (writeByte_after ((s.locate8 (.sfr o)).1.look_dataOf s).sameMap _ h)]
  exact run_modify _ _

theorem exec_push_rg (g : RG) (h : s.writableN (s.sp - 3) 3 = true) :
    exec (.push (.rg g)) s = .next (s.push24 (s.rg g)) := by
  show execPush (.rg g) s = _
  unfold execPush
  rw [run_bind_get]
  exact run_of_ok (push24_of _ h)

end Push

/-! ## POP (R608 to R610, R612) -/

section Pop

variable {s : State}

/-- The four accesses of POP PSW, by their answers. -/
theorem execPop_psw_of {l h : Byte} {t u : State} (hl : readByte s.sp s = .ok (l, t))
    (hh : readByte (s.sp + 1) t = .ok (h, u)) :
    execPop .psw s = .next { u.setSp (s.sp + 2) with psw := (u.psw.setLow l).setHigh h } := by
  obtain ⟨hlow, hhigh⟩ := word_parts h l
  unfold execPop
  rw [run_bind_get, run_bind_ok _ hl, run_bind_ok _ hh, run_modify, Psw.ofWord, hlow, hhigh]

theorem exec_pop_psw (h : s.readableN s.sp 2 = true) :
    let l := s.look s.sp
    let u := l.2.look (s.sp + 1)
    exec (.pop .psw) s = .next { u.2.setSp (s.sp + 2) with psw := (s.psw.setLow l.1).setHigh u.1 } := by
  obtain ⟨hlo, hhi⟩ := State.readableN_two.mp h
  have hpsw := ((s.look s.sp).2.psw_look (s.sp + 1)).trans (s.psw_look s.sp)
  show execPop .psw s = _
  rw [execPop_psw_of (readByte_parts (.refl s) hlo) (readByte_parts (s.look_sameMap s.sp) hhi), hpsw]

/-- The place of an sfrp operand does not change with SP or the record of the host. -/
theorem loc16_sfr_after {t : State} (h : s.SameMap t) (o : Byte) :
    loc16 (.sfr o) t = .ok ((s.locate16 (.sfr o)).1, t) := by
  rw [loc16_of rfl, State.locate16, State.locate16, State.eaSfr_congr h]

theorem loc8_sfr_after {t : State} (h : s.SameMap t) (o : Byte) :
    loc8 (.sfr o) t = .ok ((s.locate8 (.sfr o)).1, t) := by
  rw [loc8_of rfl, State.locate8, State.locate8, State.sfrLoc_congr h]

theorem exec_pop_sfrp {o : Byte} (h : s.readableN s.sp 2 = true) (hw : s.writes16 (.sfr o) = true) :
    let v := s.look16 s.sp
    exec (.pop (.sfrp o)) s = .next ((s.locate16 (.sfr o)).1.store v.1 (v.2.setSp (s.sp + 2))) := by
  have hmap : s.SameMap ((s.look16 s.sp).2.setSp (s.sp + 2)) := (s.look16_sameMap s.sp).trans (State.setSp_sameMap _ _)
  have hwrite : (s.locate16 (.sfr o)).1.writable s = true := hw
  have hpop : pop16 s = .ok ((s.look16 s.sp).1, (s.look16 s.sp).2.setSp (s.sp + 2)) := pop16_of h
  show execPop (.sfrp o) s = _
  unfold execPop
  rw [run_bind_ok _ hpop, run_bind_ok _ (loc16_sfr_after hmap o)]
  exact run_of_ok (write16_of _ ((Loc16.writable_congr hmap _).trans hwrite))

theorem exec_pop_sfr {o : Byte} (h : s.readable s.sp = true) (hw : s.writes8 (.sfr o) = true) :
    let v := s.look s.sp
    exec (.pop (.sfr o)) s = .next ((s.locate8 (.sfr o)).1.store v.1 (v.2.setSp (s.sp + 1))) := by
  have hmap : s.SameMap ((s.look s.sp).2.setSp (s.sp + 1)) := (s.look_sameMap s.sp).trans (State.setSp_sameMap _ _)
  have hwrite : (s.locate8 (.sfr o)).1.writable s = true := hw
  show execPop (.sfr o) s = _
  unfold execPop
  rw [run_bind_get, run_bind_of _ (readByte_of h), run_bind_modify, run_bind_ok _ (loc8_sfr_after hmap o)]
  exact run_of_ok (write8_of _ ((Loc8.writable_congr hmap _).trans hwrite))

theorem exec_pop_rg (g : RG) (h : s.readableN s.sp 3 = true) :
    exec (.pop (.rg g)) s = .next (((s.look24 s.sp).2.setSp (s.sp + 3)).setRg g (s.look24 s.sp).1) := by
  have hpop : pop24 s = .ok ((s.look24 s.sp).1, (s.look24 s.sp).2.setSp (s.sp + 3)) := pop24_of h
  show execPop (.rg g) s = _
  unfold execPop
  rw [run_bind_ok _ hpop, run_modify]

end Pop

/-- Settles O39. -/
theorem pushPopOne : Obligations.PushPopOne := by
  refine ⟨fun s v => rfl, fun s o g => ⟨fun h => ?_, fun h hr => ?_, fun h hr => ?_, fun h => ?_⟩,
    fun s o g => ⟨exec_pop_psw, fun h hw => ?_, fun h hw => ?_, fun h => ?_⟩⟩
  · obtain ⟨n, hexec⟩ := exec_push_psw h
    exact ⟨_, n, hexec, rfl, s.keeps_pushedPsw _ _⟩
  · exact ⟨_, exec_push_sfrp h hr, rfl, ((State.keeps_store16 _ _ _).trans_same (State.keeps_setSp _ _ _)).after_same
      ((s.locate16 (.sfr o)).1.keeps_look s)⟩
  · exact ⟨_, exec_push_sfr h hr, rfl, ((State.keeps_store _ _ _).trans_same (State.keeps_setSp _ _ _)).after_same
      (State.keeps_look (s.locate8 (.sfr o)).1 s)⟩
  · exact ⟨_, exec_push_rg g h, rfl, s.keeps_push24 _⟩
  · have hmap : s.SameMap ((s.look16 s.sp).2.setSp (s.sp + 2)) := (s.look16_sameMap s.sp).trans (State.setSp_sameMap _ _)
    have hstore := State.keeps_storeLoc16 ((s.look16 s.sp).2.setSp (s.sp + 2)) (s.look16 s.sp).1
      (s.locate16_inRegs (.sfr o))
    rw [State.footLoc16_congr hmap] at hstore
    exact ⟨_, exec_pop_sfrp h hw, rfl,
      hstore.after_same fun f => (s.keeps_look16 s.sp f).trans_same (State.keeps_setSp _ _ f)⟩
  · have hmap : s.SameMap ((s.look s.sp).2.setSp (s.sp + 1)) := (s.look_sameMap s.sp).trans (State.setSp_sameMap _ _)
    have hstore := State.keeps_store8 (s.locate8 (.sfr o)).1 (s.look s.sp).1 ((s.look s.sp).2.setSp (s.sp + 1))
      (s.locate8_inRegs (.sfr o)).inArea
    rw [State.footLoc8_congr hmap] at hstore
    exact ⟨_, exec_pop_sfr h hw, rfl,
      hstore.after_same fun f => (State.keeps_look (.mem s.sp) s f).trans_same (State.keeps_setSp _ _ f)⟩
  · have hset := State.keeps_setRg ((s.look24 s.sp).2.setSp (s.sp + 3)) g (s.look24 s.sp).1
    obtain ⟨i, hi⟩ := s.look24_io s.sp
    have hfoot : ((s.look24 s.sp).2.setSp (s.sp + 3)).footRg g = s.footRg g := by rw [hi]; rfl
    rw [hfoot] at hset
    exact ⟨_, exec_pop_rg g h, rfl,
      hset.after_same fun f => (s.keeps_look24 s.sp f).trans_same (State.keeps_setSp _ _ f)⟩

end Sys2Proof.Machine
end

section
/-! Calls, returns, the frame of an interrupt and context switching (O44 to O48; 50_call_return R640 to R656,
60_exceptions R835, R841). -/

namespace Sys2Proof

theorem decodeRows_returns (rest : List Byte) : decodeRows (0x56#8 :: rest) = .ok .ret rest ∧
    decodeRows (0x57#8 :: rest) = .ok .reti rest ∧ decodeRows (0x5F#8 :: rest) = .ok .retb rest := ⟨rfl, rfl, rfl⟩

namespace Machine

/-! ## CALL, CALLF, CALLT (R640 to R649) -/

/-- The return address of `s` saved and the pc at `p`, in the state `u` in which the target was read. -/
def State.called (s u : State) (p : PAddr) : State :=
  { (u.store24 (s.sp - 3) (s.pc.setWidth 24)).setSp (s.sp - 3) with pc := p }

section Call

variable {s u : State} (p : PAddr)

theorem State.target_io (s : State) (t : Target) : ∃ i, (s.target t).2 = { s with io := i } := by
  cases t with
  | indRp n => exact s.look16_io _
  | indRg g => exact s.look24_io _
  | _ => exact ⟨s.io, rfl⟩

theorem callTo_after (hu : ∃ i, u = { s with io := i }) (h : s.writableN (s.sp - 3) 3 = true) :
    callTo p u = .ok ((), s.called u p) := by
  obtain ⟨i, rfl⟩ := hu
  have hpush := push24_after (s := s) (t := { s with io := i }) ⟨rfl, rfl⟩ rfl (s.pc.setWidth 24) h
  unfold callTo pushRet
  rw [bind_get, bind_of _ hpush]
  rfl

theorem State.keeps_called (hu : ∃ i, u = { s with io := i }) :
    s.keeps (s.called u p) ⟨bytesAt (s.sp - 3) 3, []⟩ := by
  obtain ⟨i, rfl⟩ := hu
  have hstore := State.keeps_store24 { s with io := i } (s.sp - 3) (s.pc.setWidth 24)
  exact (hstore.after_same fun f => s.keeps_rest _ _ _ i _ f).trans_same (State.keeps_rest _ p _ _ _ _ _)

theorem exec_call {t : Target} (ht : s.readsTarget t = true) (h : s.writableN (s.sp - 3) 3 = true) :
    exec (.call t) s = .next (s.called (s.target t).2 (s.target t).1) := by
  show execCall t s = _
  rw [execCall, run_bind_of _ (targetOf_of ht)]
  exact run_of_ok (callTo_after _ (s.target_io t) h)

/-- CALLF's target is 800H with the eleven bits below it. -/
theorem callf_target (a : BitVec 11) : (1#1 ++ a).setWidth 20 = BitVec.ofNat 20 (0x800 + a.toNat) := by
  apply BitVec.eq_of_toNat_eq
  have ha := a.isLt
  have happend : (1#1 ++ a).toNat = 0x800 + a.toNat := by
    rw [BitVec.toNat_append, ← Nat.shiftLeft_add_eq_or_of_lt ha]
    rfl
  rw [BitVec.toNat_setWidth, happend, BitVec.toNat_ofNat]

theorem exec_callf (a : BitVec 11) (h : s.writableN (s.sp - 3) 3 = true) :
    exec (.callf a) s = .next (s.called s (BitVec.ofNat 20 (0x800 + a.toNat))) := by
  rw [← callf_target]
  exact run_of_ok (callTo_after _ ⟨s.io, rfl⟩ h)

theorem exec_callt {n : Fin 32} (hr : s.readableN (BitVec.ofNat 24 (0x40 + 2 * n.val)) 2 = true)
    (h : s.writableN (s.sp - 3) 3 = true) :
    exec (.callt n) s = .next (s.called (s.look16 (BitVec.ofNat 24 (0x40 + 2 * n.val))).2
      ((s.look16 (BitVec.ofNat 24 (0x40 + 2 * n.val))).1.setWidth 20)) := by
  show execCallt n s = _
  rw [execCallt, run_bind_of _ (readMem16_of hr)]
  exact run_of_ok (callTo_after _ (s.look16_io _) h)

end Call

/-- Settles O44. -/
theorem calls : Obligations.Calls := by
  intro s t a n h saved
  exact ⟨fun _ ht => ⟨_, exec_call ht h, rfl, State.keeps_called _ (s.target_io t)⟩,
    ⟨_, exec_callf a h, rfl, State.keeps_called _ ⟨s.io, rfl⟩⟩,
    fun hr => ⟨_, exec_callt hr h, rfl, State.keeps_called _ (s.look16_io _)⟩⟩

/-! ## RET, RETI, RETB (R652 to R654) -/

section Return

variable {s : State}

theorem exec_ret (h : s.readableN s.sp 3 = true) :
    exec .ret s =
      .next { (s.look24 s.sp).2.setSp (s.sp + 3) with pc := (s.look24 s.sp).1.setWidth 20 } := by
  have hpop : pop24 s = .ok ((s.look24 s.sp).1, (s.look24 s.sp).2.setSp (s.sp + 3)) := pop24_of h
  have hret : popRet s = .ok ((s.look24 s.sp).1.setWidth 20, (s.look24 s.sp).2.setSp (s.sp + 3)) := by
    unfold popRet
    rw [bind_of _ hpop]
    rfl
  show execRet s = _
  rw [execRet, run_bind_ok _ hret]
  exact run_modify _ _

theorem exec_retb (h : s.readableN s.sp 4 = true) : exec .retb s = .next s.returnFromStack :=
  run_of_ok (returnFromStack_of h)

theorem State.returnFromStack_ispr (s : State) : s.returnFromStack.ispr = s.ispr :=
  (State.Updates.returnFromStack s).ispr

theorem exec_reti (h : s.readableN s.sp 4 = true) :
    exec .reti s = .next { s.returnFromStack with ispr := s.ispr.clearHighest } := by
  show execReti s = _
  rw [execReti, run_bind_ok _ (returnFromStack_of h), run_modify, State.returnFromStack_ispr]

theorem Psw.ofWord_eq (p : Psw) (w : Word) :
    p.ofWord w = (p.setLow (w.setWidth 8)).setHigh (w.extractLsb' 8 8) := by
  rw [BitVec.setWidth_eq_extractLsb' (by omega : 8 ≤ 16)]
  rfl

end Return

/-- Settles O45. -/
theorem returns : Obligations.Returns := by
  refine ⟨fun o rest h => ?_, fun s => ⟨exec_ret, fun h => ?_⟩⟩
  · obtain ⟨hret, hreti, hretb⟩ := decodeRows_returns rest
    exact ⟨decode_of_decodeRows h hret, decode_of_decodeRows h hreti, decode_of_decodeRows h hretb⟩
  · dsimp only
    rw [← Psw.ofWord_eq]
    exact ⟨exec_retb h, exec_reti h⟩

/-! ## Plain memory (RAM and external memory) -/

section Plain

variable {s t : State} {a : Long} {n : Nat}

theorem State.writable_of_plain (h : s.plain a = true) : s.writable a = true := by
  rw [State.plain] at h
  rw [State.writable]
  cases hplace : s.place a with
  | ram _ => rfl
  | ext _ => rfl
  | _ => rw [hplace] at h; cases h

theorem State.plainN_iff : s.plainN a n = true ↔ ∀ i < n, s.plain (a + BitVec.ofNat 24 i) = true := by
  simp [State.plainN]

theorem State.writableN_of_plain (h : s.plainN a n = true) : s.writableN a n = true := by
  rw [State.plainN_iff] at h
  simp only [State.writableN, List.all_eq_true, List.mem_range]
  exact fun i hi => State.writable_of_plain (h i hi)

/-- A part of plain memory. -/
theorem State.plainN_part {m k : Nat} (h : s.plainN a n = true) (hk : k + m ≤ n) :
    s.plainN (a + BitVec.ofNat 24 k) m = true := by
  rw [State.plainN_iff] at h ⊢
  intro i hi
  rw [BitVec.add_assoc, ← BitVec.ofNat_add]
  exact h (k + i) (by omega)

theorem State.plainN_congr (h : s.SameMap t) (a : Long) (n : Nat) : t.plainN a n = s.plainN a n := by
  simp only [State.plainN, State.plain_congr h.1 h.2]

/-- States that agree on the bytes at `a` agree on the word there. -/
theorem State.peek16_congr (h0 : t.peek a = s.peek a) (h1 : t.peek (a + 1) = s.peek (a + 1)) :
    t.peek16 a = s.peek16 a := by rw [State.peek16, State.peek16, h0, h1]

theorem State.peek16_of_peek (h : ∀ x ∈ bytesAt a 2, t.peek x = s.peek x) : t.peek16 a = s.peek16 a :=
  State.peek16_congr (h _ ((mem_bytesAt_two _ _).mpr (.inl rfl))) (h _ ((mem_bytesAt_two _ _).mpr (.inr rfl)))

theorem State.keeps_refl (s : State) (f : Footprint) : s.keeps s f :=
  ⟨fun _ _ => rfl, fun _ _ => rfl⟩

theorem State.peek24_congr (h : ∀ b, t.peek b = s.peek b) : t.peek24 a = s.peek24 a := by
  rw [State.peek24, State.peek24, State.peek16_congr (h a) (h (a + 1)), h]

/-- A word stored elsewhere. -/
theorem State.peek16_store16_other {b : Long} (w : Word) (h : ∀ x ∈ [a, a + 1], x ∉ bytesAt b 2) :
    (s.store16 b w).peek16 a = s.peek16 a := by
  have other (x : Long) (hx : x ∈ [a, a + 1]) : (s.store16 b w).peek x = s.peek x := by
    have hne := h x hx
    rw [mem_bytesAt_two, not_or] at hne
    exact State.peek_store16 w hne.1 hne.2
  exact State.peek16_congr (other a (by simp)) (other (a + 1) (by simp))

theorem State.byte_parts_of_peek16 {w : Word} (h : s.peek16 a = some w) :
    s.peek a = some (w.extractLsb' 0 8) ∧ s.peek (a + 1) = some (w.extractLsb' 8 8) := by
  obtain ⟨lo, hi, hlo, hhi, rfl⟩ := State.bytes_of_peek16 h
  rw [(word_parts hi lo).1, (word_parts hi lo).2]
  exact ⟨hlo, hhi⟩

end Plain

/-! ## RET after a call -/

section CallReturn

variable {s u : State}

theorem State.called_peek24 (hwf : s.wf) (hplain : s.plainN (s.sp - 3) 3 = true) (hu : ∃ i, u = { s with io := i })
    (p : PAddr) : (s.called u p).peek24 (s.sp - 3) = some (s.pc.setWidth 24) := by
  obtain ⟨i, rfl⟩ := hu
  have hstore := State.peek24_store24 (s := { s with io := i }) (a := s.sp - 3) (s.pc.setWidth 24) hwf
    ((State.plainN_congr (s := s) ⟨rfl, rfl⟩ _ _).trans hplain)
  rw [← hstore]
  exact State.peek24_congr fun b =>
    State.peek_congr (s := State.store24 _ (s.sp - 3) (s.pc.setWidth 24)) (t := s.called _ p) rfl rfl rfl rfl b

/-- The pc, SP and PSW after RET are those before the call. -/
theorem ret_after_call (hinv : s.Inv) (hplain : s.plainN (s.sp - 3) 3 = true) (hsp : s.spHolds (s.sp - 3))
    (hu : ∃ i, u = { s with io := i }) (p : PAddr) :
    ∃ v, exec .ret (s.called u p) = .next v ∧ v.pc = s.pc ∧ v.sp = s.sp ∧ v.psw = s.psw := by
  have hpeek := State.called_peek24 hinv.wf hplain hu p
  obtain ⟨i, rfl⟩ := hu
  obtain ⟨r, m, j, hstore⟩ := State.store24_parts { s with io := i } (s.sp - 3) (s.pc.setWidth 24)
  have hcalled : s.called { s with io := i } p = { s with sp := s.sp - 3, pc := p, ram := r, mem := m, io := j } := by
    rw [State.called, hstore, State.setSp, hsp]
  rw [hcalled] at hpeek ⊢
  obtain ⟨hlook, hread⟩ := State.look24_of_peek hpeek
  refine ⟨_, exec_ret hread, ?_, ?_, ?_⟩
  · show (State.look24 _ (s.sp - 3)).1.setWidth 20 = s.pc
    rw [hlook]
    exact BitVec.setWidth_setWidth_of_le s.pc (by omega)
  · show (s.sp - 3 + 3) &&& (State.look24 _ (s.sp - 3)).2.cfg.spMask = s.sp
    rw [hlook, BitVec.sub_add_cancel]
    exact hinv.spBits
  · show (State.look24 _ (s.sp - 3)).2.psw = s.psw
    rw [hlook]

end CallReturn

/-! ## The frame of an interrupt (60_exceptions R835) -/

section Frame

theorem extractLsb'_of_extractLsb' {n : Nat} (x : BitVec n) (i j k l : Nat) (h : k + l ≤ j) :
    (x.extractLsb' i j).extractLsb' k l = x.extractLsb' (i + k) l := by
  apply BitVec.eq_of_getLsbD_eq
  intro b hb
  simp [hb, show k + b < j by omega, Nat.add_assoc]

variable {s : State} {vec : Nat} {ret : PAddr} {w : Word}

/-- The two words of the frame stored below SP. -/
def State.framed (s : State) (ret : PAddr) : State :=
  (s.store16 (s.sp - 4) (ret.extractLsb' 0 16)).store16 (s.sp - 2) (s.psw.frame ret)

theorem frame_bytes (p : Long) : bytesAt (p - 4) 4 = bytesAt (p - 4) 2 ++ bytesAt (p - 2) 2 := by
  have h2 : p - 2 = p - 4 + 2 := by bv_omega
  have h3 : p - 2 + 1 = p - 4 + 3 := by bv_omega
  simp only [bytesAt, List.range_succ, List.range_zero, List.nil_append, List.cons_append, List.map_cons, List.map_nil,
    List.cons.injEq, and_true, true_and]
  exact ⟨h2.symm.trans (by simp), by simpa using h3.symm⟩

theorem State.keeps_framed (s : State) (ret : PAddr) : s.keeps (s.framed ret) ⟨bytesAt (s.sp - 4) 4, []⟩ := by
  rw [frame_bytes]
  exact (s.keeps_store16 _ _).trans (State.keeps_store16 _ _ _)

theorem State.framed_high (hwf : s.wf) (h : s.plainN (s.sp - 4) 4 = true) :
    (s.framed ret).peek16 (s.sp - 2) = some (s.psw.frame ret) := by
  have hplain : s.plainN (s.sp - 2) 2 = true := by
    rw [show s.sp - 2 = s.sp - 4 + BitVec.ofNat 24 2 by bv_omega]
    exact State.plainN_part h (by omega)
  exact State.peek16_store16 _ (State.wf_store16 _ _ hwf)
    ((State.plainN_congr (s.store16_dataOf _ _).sameMap _ _).trans hplain)

theorem State.framed_low (hwf : s.wf) (h : s.plainN (s.sp - 4) 4 = true) :
    (s.framed ret).peek16 (s.sp - 4) = some (ret.extractLsb' 0 16) := by
  have hplain : s.plainN (s.sp - 4) 2 = true := by
    simpa using State.plainN_part (m := 2) (k := 0) h (by omega)
  have hother : ∀ x ∈ [s.sp - 4, s.sp - 4 + 1], x ∉ bytesAt (s.sp - 2) 2 := by
    intro x hx
    rw [mem_bytesAt_two]
    simp only [List.mem_cons, List.not_mem_nil, or_false] at hx
    rcases hx with rfl | rfl <;> bv_omega
  exact (State.peek16_store16_other _ hother).trans (State.peek16_store16 _ hwf hplain)

/-- The rest of the acknowledgment touches no byte. -/
theorem State.acknowledge_eq (s : State) (vec : Nat) (ret : PAddr) :
    s.acknowledge vec ret =
      { ((s.framed ret).setSp (s.sp - 4)).look16 (BitVec.ofNat 24 vec) |>.2 with
        pc := (((s.framed ret).setSp (s.sp - 4)).look16 (BitVec.ofNat 24 vec)).1.setWidth 20
        psw := { s.psw with ie := false } } := rfl

theorem State.peek_acknowledge (s : State) (vec : Nat) (ret : PAddr) (a : Long) :
    (s.acknowledge vec ret).peek a = (s.framed ret).peek a := by
  obtain ⟨i, h⟩ := ((s.framed ret).setSp (s.sp - 4)).look16_io (BitVec.ofNat 24 vec)
  rw [State.acknowledge_eq, h]
  exact State.peek_congr (s := s.framed ret)
    (t := { (s.framed ret).setSp (s.sp - 4) with pc := _, psw := { s.psw with ie := false }, io := i })
    rfl rfl rfl rfl a

theorem State.keeps_acknowledge (s : State) (vec : Nat) (ret : PAddr) :
    s.keeps (s.acknowledge vec ret) ⟨bytesAt (s.sp - 4) 4, []⟩ := by
  refine ⟨fun a ha => (s.peek_acknowledge vec ret a).trans ((s.keeps_framed ret).1 a ha), fun i _ => ?_⟩
  obtain ⟨_, _, _, _, h⟩ := s.acknowledge_parts vec ret
  rw [h]

/-- Where the vector's word is not in the frame, the pc is that word. -/
theorem State.acknowledge_pc (hvec : s.peek16 (BitVec.ofNat 24 vec) = some w)
    (hapart : ∀ a ∈ bytesAt (BitVec.ofNat 24 vec) 2, a ∉ bytesAt (s.sp - 4) 4) :
    (s.acknowledge vec ret).pc = w.setWidth 20 := by
  have hkeeps := (s.keeps_framed ret).trans_same ((s.framed ret).keeps_setSp (s.sp - 4) _)
  have hsame (a : Long) (ha : a ∈ bytesAt (BitVec.ofNat 24 vec) 2) :
      ((s.framed ret).setSp (s.sp - 4)).peek a = s.peek a := hkeeps.1 a (hapart a ha)
  have hword : ((s.framed ret).setSp (s.sp - 4)).peek16 (BitVec.ofNat 24 vec) = some w :=
    (State.peek16_of_peek hsame).trans hvec
  show (((s.framed ret).setSp (s.sp - 4)).look16 (BitVec.ofNat 24 vec)).1.setWidth 20 = _
  rw [(State.look16_of_peek hword).1]

theorem readableN_four {s : State} {a : Long} (hlo : s.readableN a 2 = true) (hhi : s.readableN (a + 2) 2 = true) :
    s.readableN a 4 = true := by
  obtain ⟨h0, h1⟩ := State.readableN_two.mp hlo
  obtain ⟨h2, h3⟩ := State.readableN_two.mp hhi
  have e3 : a + 2 + 1 = a + 3 := by bv_omega
  rw [e3] at h3
  simpa [State.readableN, List.range_succ, h0] using And.intro h1 (And.intro h2 h3)

/-- What BRK does is the acknowledgment, whatever IE is. -/
theorem exec_brk (hw : s.writableN (s.sp - 4) 4 = true) (hr : s.readableN 0x3E 2 = true) :
    exec .brk s = .next (s.acknowledge 0x3E s.pc) := by
  show execBrk s = _
  rw [execBrk, run_bind_get]
  exact run_of_ok (acknowledge_of _ hw hr)

end Frame

/-- Settles O47. -/
theorem vectoredEntry : Obligations.VectoredEntry := by
  refine ⟨fun s vec ret w hinv hplain hsp hvec hapart => ?_, fun s hw hr => ⟨exec_brk hw hr, ?_⟩⟩
  · obtain ⟨h0, h1⟩ := State.byte_parts_of_peek16 (State.framed_low (ret := ret) hinv.wf hplain)
    obtain ⟨h2, h3⟩ := State.byte_parts_of_peek16 (State.framed_high (ret := ret) hinv.wf hplain)
    obtain ⟨hlow, hhigh⟩ := word_parts (s.psw.high (ret.extractLsb' 16 4)) s.psw.low
    rw [Psw.frame, hlow] at h2
    rw [Psw.frame, hhigh, show s.sp - 2 + 1 = s.sp - 1 by bv_omega] at h3
    rw [show s.sp - 4 + 1 = s.sp - 3 by bv_omega] at h1
    rw [extractLsb'_of_extractLsb' _ _ _ _ _ (by omega)] at h0 h1
    have hparts := s.acknowledge_parts vec ret
    refine ⟨_, run_of_ok (acknowledge_of ret (State.writableN_of_plain hplain) (State.look16_of_peek hvec).2), rfl,
      (s.peek_acknowledge vec ret _).trans h0, (s.peek_acknowledge vec ret _).trans h1,
      (s.peek_acknowledge vec ret _).trans h2, (s.peek_acknowledge vec ret _).trans h3, ?_,
      State.acknowledge_pc hvec hapart, ?_, ?_, s.keeps_acknowledge vec ret⟩ <;>
      obtain ⟨p, r, m, i, h⟩ := hparts <;> rw [h]
    · exact hsp
    · rfl
  · obtain ⟨_, _, _, _, h⟩ := s.acknowledge_parts 0x3E s.pc
    rw [h]

/-! ## RETB after BRK -/

section BrkReturn

variable {s : State} {lo hi : Word}

theorem exec_retb_of_peek (hlo : s.peek16 s.sp = some lo) (hhi : s.peek16 (s.sp + 2) = some hi) :
    exec .retb s = .next { s.setSp (s.sp + 4) with psw := s.psw.ofWord hi, pc := hi.extractLsb' 8 4 ++ lo } := by
  obtain ⟨hlookLo, hreadLo⟩ := State.look16_of_peek hlo
  obtain ⟨hlookHi, hreadHi⟩ := State.look16_of_peek hhi
  rw [exec_retb (readableN_four hreadLo hreadHi), State.returnFromStack, hlookLo, hlookHi]

/-- The frame holds the address it was made for. -/
theorem frame_pc (p : Psw) (ret : PAddr) : (p.frame ret).extractLsb' 8 4 ++ ret.extractLsb' 0 16 = ret := by
  have hhigh : (p.frame ret).extractLsb' 8 4 = ret.extractLsb' 16 4 := by
    have h8 : (p.frame ret).extractLsb' 8 8 = p.high (ret.extractLsb' 16 4) := (word_parts _ _).2
    have h4 : (p.frame ret).extractLsb' 8 4 = ((p.frame ret).extractLsb' 8 8).extractLsb' 0 4 := by
      rw [extractLsb'_of_extractLsb' _ _ _ _ _ (by omega)]
    rw [h4, h8]
    apply BitVec.eq_of_getLsbD_eq
    intro i hi
    rw [BitVec.getLsbD_extractLsb', p.high_getLsbD _ ⟨0 + i, by omega⟩]
    rcases lt_four_cases hi with rfl | rfl | rfl | rfl <;> simp
  rw [hhigh, BitVec.extractLsb'_append_extractLsb'_eq_extractLsb' (by rfl)]
  simp

theorem Psw.ofWord_frame (p q : Psw) (ret : PAddr) : q.ofWord (p.frame ret) = p := Psw.ofWord_saved p q _

theorem retb_after_brk (hinv : s.Inv) (hplain : s.plainN (s.sp - 4) 4 = true) (hsp : s.spHolds (s.sp - 4)) :
    ∃ v, exec .retb (s.acknowledge 0x3E s.pc) = .next v ∧ v.pc = s.pc ∧ v.sp = s.sp ∧ v.psw = s.psw := by
  have hlo := (State.peek16_congr (s.peek_acknowledge 0x3E s.pc _) (s.peek_acknowledge 0x3E s.pc _)).trans
    (State.framed_low (ret := s.pc) hinv.wf hplain)
  have hhi := (State.peek16_congr (s.peek_acknowledge 0x3E s.pc _) (s.peek_acknowledge 0x3E s.pc _)).trans
    (State.framed_high (ret := s.pc) hinv.wf hplain)
  obtain ⟨p, r, m, i, hparts⟩ := s.acknowledge_parts 0x3E s.pc
  rw [State.spHolds] at hsp
  rw [hsp] at hparts
  rw [hparts] at hlo hhi ⊢
  have hnext : s.sp - 2 = s.sp - 4 + 2 := by bv_omega
  rw [hnext] at hhi
  refine ⟨_, exec_retb_of_peek hlo hhi, frame_pc s.psw s.pc, ?_, Psw.ofWord_frame s.psw _ s.pc⟩
  show (s.sp - 4 + 4) &&& s.cfg.spMask = s.sp
  rw [BitVec.sub_add_cancel]
  exact hinv.spBits

end BrkReturn

/-- Settles O46. -/
theorem callThenReturn : Obligations.CallThenReturn := by
  intro s hinv hplain hsp3 hsp4 back
  have hplain3 : s.plainN (s.sp - 3) 3 = true := by
    rw [show s.sp - 3 = s.sp - 4 + BitVec.ofNat 24 1 by bv_omega]
    exact State.plainN_part hplain (by omega)
  have hw := State.writableN_of_plain hplain3
  refine ⟨fun t _ ht => ⟨_, exec_call ht hw, rfl, ret_after_call hinv hplain3 hsp3 (s.target_io t) _⟩,
    fun a => ⟨_, exec_callf a hw, rfl, ret_after_call hinv hplain3 hsp3 ⟨s.io, rfl⟩ _⟩, ?_,
    fun hr => ⟨_, exec_brk (State.writableN_of_plain hplain) hr, retb_after_brk hinv hplain hsp4⟩⟩
  intro n e hr
  exact ⟨_, exec_callt hr hw, rfl, ret_after_call hinv hplain3 hsp3 (s.look16_io _) _⟩

/-! ## Context switching (R651, R655, R656) -/

section Context

variable {s : State} (b : BitVec 3)

theorem State.rpOf_setRpOf {n : RP} (w : Word) (h : s.ram.wf = true) : (s.setRpOf b n w).rpOf b n = w :=
  State.ram16_setRam16 _ w h

theorem State.rpOf_setRpOf_other {m n : RP} (w : Word) (h : m ≠ n) : (s.setRpOf b n w).rpOf b m = s.rpOf b m :=
  State.ram16_setRam16_other w (pairKey_apart b h)

/-- RP2 and RP3 of a bank written, as a context switch saves the pc and the PSW in them. -/
def State.savedIn (s : State) (b : BitVec 3) (ret : PAddr) : State :=
  (s.setRpOf b .rp2 (ret.extractLsb' 0 16)).setRpOf b .rp3 (s.psw.frame ret)

theorem State.savedIn_rp2 (ret : PAddr) (h : s.ram.wf = true) :
    (s.savedIn b ret).rpOf b .rp2 = ret.extractLsb' 0 16 := by
  rw [State.savedIn, State.rpOf_setRpOf_other b _ (by decide), State.rpOf_setRpOf b _ h]

theorem State.savedIn_rp3 (ret : PAddr) (h : s.ram.wf = true) : (s.savedIn b ret).rpOf b .rp3 = s.psw.frame ret :=
  State.rpOf_setRpOf b _ (State.setRam16_wf _ h)

theorem State.keeps_contextSwitch (s : State) (ret : PAddr) :
    s.keeps (s.contextSwitch b ret) ((s.footRpOf b .rp2).and (s.footRpOf b .rp3)) :=
  ((s.keeps_setRpOf b .rp2 _).trans (State.keeps_setRpOf _ b .rp3 _)).trans_same (State.keeps_rest _ _ _ _ _ _ _)

theorem State.keeps_contextReturn (s : State) (w : Word) : s.keeps (s.contextReturn w) (s.footRp .rp2) :=
  (s.keeps_setRp .rp2 w).trans_same (State.keeps_rest _ _ _ _ _ _ _)

/-- A context switch and the return from it: PC, PSW and SP of before. -/
theorem contextReturn_after_switch (h : s.ram.wf = true) (w : Word) :
    let v := (s.contextSwitch b s.pc).contextReturn w
    v.pc = s.pc ∧ v.psw = s.psw ∧ v.sp = s.sp := by
  have h2 : (s.contextSwitch b s.pc).rp .rp2 = s.pc.extractLsb' 0 16 := State.savedIn_rp2 b s.pc h
  have h3 : (s.contextSwitch b s.pc).rp .rp3 = s.psw.frame s.pc := State.savedIn_rp3 b s.pc h
  refine ⟨?_, ?_, rfl⟩
  · show ((s.contextSwitch b s.pc).rp .rp3).extractLsb' 8 4 ++ (s.contextSwitch b s.pc).rp .rp2 = s.pc
    rw [h2, h3, frame_pc]
  · show (s.contextSwitch b s.pc).psw.ofWord ((s.contextSwitch b s.pc).rp .rp3) = s.psw
    rw [h3, Psw.ofWord_frame]

end Context

/-- Settles O48. -/
theorem contextSwitching : Obligations.ContextSwitching := by
  refine ⟨fun s n hinv => ?_, fun s w n hinv => ⟨?_, ?_⟩⟩
  · have hlow : s.pc.setWidth 16 = s.pc.extractLsb' 0 16 := BitVec.setWidth_eq_extractLsb' (by omega)
    refine ⟨_, rfl, rfl, rfl, ?_, State.savedIn_rp3 _ s.pc hinv.ramForm, rfl, rfl, s.keeps_contextSwitch _ s.pc⟩
    exact (State.savedIn_rp2 _ s.pc hinv.ramForm).trans hlow.symm
  · exact ⟨_, rfl, rfl, rfl, State.rp_setRp .rp2 w hinv.ramForm, rfl, s.keeps_contextReturn w, rfl⟩
  · obtain ⟨hpc, hpsw, hsp⟩ := contextReturn_after_switch (BitVec.ofNat 3 n.val) hinv.ramForm w
    exact ⟨_, _, rfl, rfl, hpc, hpsw, hsp⟩

end Machine
end Sys2Proof
end

section
/-! Instruction boundaries: RESET, the acknowledgment of requests, requests not acknowledged, the bytes the
host stores and standby (O8, O58, O59, O60; 60_exceptions R835 to R852, 70_reset_and_hazards R900 to R922). -/

namespace Sys2Proof.Machine

/-! ## A step, from the boundary the host presents -/

/-- The state `s` in which the boundary `b` is answered, `bs` the boundaries after it. -/
def State.opening (s : State) (b : Boundary) (bs : List Boundary) : State :=
  { s with inputs := bs, stopped := s.stopped && !b.release }

/-- What follows the event `e` in the state of the boundary. -/
def State.react (s : State) (e : Event) : Host.Outcome State Fault Refusal :=
  match e with
  | .proceed =>
    if s.stopped || s.deadlocked then .next { s with hold := false } else runInstruction { s with hold := false }
  | e => (s.entered e).orStuck (run (takeEvent e) (s.entered e))

section Boundary

variable {s : State} {b : Boundary} {bs : List Boundary}

/-- The event depends neither on the boundaries to come nor on standby. -/
theorem step_of_cons (h : s.inputs = b :: bs) : step s = (s.opening b bs).react (s.event b) := by
  unfold step stepOnce
  rw [State.nextBoundary_of_cons h]
  rfl

theorem step_of_nil (h : s.inputs = []) :
    step s = (s.opening Boundary.none []).react (s.event Boundary.none) := by
  unfold step stepOnce
  rw [State.nextBoundary_of_nil h, State.opening, ← h]
  rfl

theorem State.react_of_acknowledged {e : Event} (he : e ≠ .proceed) :
    s.react e = (s.entered e).orStuck (run (takeEvent e) (s.entered e)) := by
  cases e with
  | proceed => exact absurd rfl he
  | _ => rfl

theorem State.react_idle (h : (s.stopped || s.deadlocked) = true) :
    s.react .proceed = .next { s with hold := false } := by
  rw [State.react, if_pos h]

theorem State.react_ne_fault (e : Event) (r : Fault) : s.react e ≠ .fault r := by
  by_cases he : e = .proceed
  · subst he
    simp only [State.react]
    split
    · exact nofun
    · exact runInstruction_no_fault _ r
  · rw [State.react_of_acknowledged he]
    exact State.orStuck_no_fault _ _ r

/-- Only the event and the release of the boundary matter to the step. -/
theorem step_eq_of_event_eq {b' : Boundary} (h : s.inputs = b :: bs) (hevent : s.event b = s.event b')
    (hrelease : b.release = b'.release) : step s = step { s with inputs := b' :: bs } := by
  rw [step_of_cons h, step_of_cons (s := { s with inputs := b' :: bs }) rfl, hevent, State.opening, hrelease]
  rfl

theorem step_of_macroStep {ws : List (Long × Byte)} (h : s.inputs = b :: bs) (he : s.event b = .macroService ws) :
    step s = .next ((s.opening b bs).macroStep ws) := by
  rw [step_of_cons h, he]
  rfl

/-! ## Which event it is (R837) -/

/-- A boundary at which the CPU looks at the requests. -/
structure State.listens (s : State) (b : Boundary) : Prop where
  reset : b.reset = false
  hold : s.hold = false
  afterReset : s.afterReset = false
  deadlocked : s.deadlocked = false

/-- The answer at such a boundary, in the order of R837. -/
def State.answer (s : State) (b : Boundary) : Event :=
  if b.nmi && s.cfg.hasNmi then .nmi else if b.wdt && s.cfg.hasWdt then .wdt else
    match b.macroService, b.request with
    | some ws, _ => .macroService ws
    | none, some r => if s.accepts r then .request r else .proceed
    | none, none => .proceed

theorem State.event_of_listens (h : s.listens b) : s.event b = s.answer b := by
  obtain ⟨hreset, hhold, hafter, hdeadlocked⟩ := h
  simp only [State.event, State.answer, hreset, hhold, hafter, hdeadlocked, Bool.or_self, Bool.false_eq_true, if_false]
  cases b.macroService <;> cases b.request <;> rfl

theorem State.event_nmi (h : s.listens b) (hnmi : b.nmi = true) (hcfg : s.cfg.hasNmi = true) : s.event b = .nmi := by
  rw [State.event_of_listens h, State.answer, hnmi, hcfg]
  rfl

theorem State.event_wdt (h : s.listens b) (hnmi : (b.nmi && s.cfg.hasNmi) = false) (hwdt : b.wdt = true)
    (hcfg : s.cfg.hasWdt = true) : s.event b = .wdt := by
  rw [State.event_of_listens h, State.answer, hnmi, hwdt, hcfg]
  rfl

theorem State.event_macroService {ws : List (Long × Byte)} (h : s.listens b) (hnmi : b.nmi = false)
    (hwdt : b.wdt = false) (hms : b.macroService = some ws) : s.event b = .macroService ws := by
  rw [State.event_of_listens h, State.answer, hnmi, hwdt, hms]
  rfl

theorem State.event_request {r : Request} (h : s.listens b) (hnmi : b.nmi = false) (hwdt : b.wdt = false)
    (hms : b.macroService = none) (hreq : b.request = some r) (hie : s.psw.ie = true)
    (hlevel : s.ispr.allows r.level = true) : s.event b = .request r := by
  have haccepts : s.accepts r = true := by rw [State.accepts, hie, hlevel]; rfl
  rw [State.event_of_listens h, State.answer, hnmi, hwdt, hms, hreq]
  exact if_pos haccepts

/-! ## Requests that are taken -/

/-- A request taken by vectoring; `f` adds its flag to ISPR (R835, R840). -/
def takeVectored (vec : Nat) (f : Ispr → Ispr) : Act Unit := do
  modify (·.acked vec)
  let s ← get
  acknowledge vec s.pc
  modify fun t => { t with ispr := f t.ispr }

theorem run_modifyIspr (f : Ispr → Ispr) (s : State) :
    run (modify fun t => { t with ispr := f t.ispr }) s = .next { s with ispr := f s.ispr } := rfl

theorem run_takeVectored {vec : Nat} (f : Ispr → Ispr) (hw : s.writableN (s.sp - 4) 4 = true)
    (hr : s.readableN (BitVec.ofNat 24 vec) 2 = true) :
    run (takeVectored vec f) s = .next { (s.acked vec).acknowledge vec s.pc with ispr := f s.ispr } := by
  have hack : acknowledge vec s.pc (s.acked vec) = .ok ((), (s.acked vec).acknowledge vec s.pc) := acknowledge_of _ hw hr
  have hispr : ((s.acked vec).acknowledge vec s.pc).ispr = s.ispr := by
    obtain ⟨_, _, _, _, h⟩ := (s.acked vec).acknowledge_parts vec s.pc
    rw [h]
    rfl
  rw [takeVectored, run_bind_modify, run_bind_get]
  exact (run_bind_ok _ hack).trans ((run_modifyIspr f _).trans (by rw [hispr]))

theorem takeRequest_vectored {r : Request} (h : r.ctx = false) : takeRequest r = takeVectored r.vec (·.add r.level) := by
  rw [takeRequest, h]
  rfl

theorem run_takeRequest_switched {r : Request} (h : r.ctx = true) (hr : s.readable (BitVec.ofNat 24 r.vec) = true) :
    let n := (s.acked r.vec).look (BitVec.ofNat 24 r.vec)
    run (takeRequest r) s = .next { n.2.contextSwitch (n.1.extractLsb' 0 3) s.pc with ispr := s.ispr.add r.level } := by
  intro n
  have hread : readByte (BitVec.ofNat 24 r.vec) (s.acked r.vec) = .ok (n.1, n.2) :=
    readByte_parts (s := s) (t := s.acked r.vec) ⟨rfl, rfl⟩ hr
  obtain ⟨i, hlook⟩ := (s.acked r.vec).look_io (BitVec.ofNat 24 r.vec)
  have hpc : n.2.pc = s.pc := (congrArg (·.pc) hlook :)
  have hispr : (n.2.contextSwitch (n.1.extractLsb' 0 3) s.pc).ispr = s.ispr := (congrArg (·.ispr) hlook :)
  rw [takeRequest, h, run_bind_modify]
  refine (run_bind_ok _ hread).trans ?_
  rw [run_bind_modify, hpc]
  exact (run_modifyIspr (·.add r.level) _).trans (by rw [hispr])

/-- An event that is taken without fault is the whole step. -/
theorem step_of_taken {e : Event} {t : State} (h : s.inputs = b :: bs) (he : s.event b = e) (hne : e ≠ .proceed)
    (hrun : run (takeEvent e) ((s.opening b bs).entered e) = .next t) : step s = .next t := by
  rw [step_of_cons h, he, State.react_of_acknowledged hne, hrun]
  rfl

end Boundary

/-- Settles O58. -/
theorem requestsTaken : Obligations.RequestsTaken := by
  refine ⟨fun s b bs h hreset hhold hafter hdead hw => ?_,
    fun s b bs r h hreset hnmi hwdt hms hreq hhold hafter hdead hie hlevel => ?_⟩
  · have hlistens : s.listens b := ⟨hreset, hhold, hafter, hdead⟩
    refine ⟨fun hnmi hcfg hr => ?_, fun hnmi hwdt hcfg hr => ?_⟩
    · exact step_of_taken h (State.event_nmi hlistens hnmi hcfg) nofun
        (run_takeVectored (s := s.opening b bs) (fun i => { i with nmi := true }) hw hr)
    · exact step_of_taken h (State.event_wdt hlistens hnmi hwdt hcfg) nofun
        (run_takeVectored (s := s.opening b bs) (fun i => { i with wdt := true }) hw hr)
  · have hevent := State.event_request ⟨hreset, hhold, hafter, hdead⟩ hnmi hwdt hms hreq hie hlevel
    refine ⟨fun hctx hw hr => ?_, fun hctx hr => ?_⟩
    · refine step_of_taken h hevent nofun ?_
      rw [takeEvent, takeRequest_vectored hctx]
      exact run_takeVectored (s := s.opening b bs) (·.add r.level) hw hr
    · exact step_of_taken h hevent nofun (run_takeRequest_switched (s := s.opening b bs) hctx hr)

/-- Settles O59: the boundary without the request leads to the same event. -/
theorem requestsDeferred : Obligations.RequestsDeferred := by
  intro s b bs h hreset
  refine ⟨fun hclosed => ?_, fun r hr hdenied => ?_⟩
  · have hdefers (c : Boundary) : s.defers c := hclosed.elim .inl fun hafter => .inr (.inl hafter)
    have hproceed (c : Boundary) (hc : c.reset = false) : s.event c = .proceed :=
      (s.event_eq_proceed_iff c).mpr ⟨hc, .inr (hdefers c)⟩
    exact step_eq_of_event_eq h ((hproceed b hreset).trans (hproceed _ rfl).symm) rfl
  · have haccepts : s.accepts r = false := State.accepts_eq_false_iff.mpr hdenied
    refine step_eq_of_event_eq h ?_ rfl
    simp only [State.event, hr, haccepts, Bool.false_eq_true, if_false]

/-! ## Bytes stored by the host at a boundary (R842) -/

section Poke

variable {s : State} {a : Long} {v : Byte}

theorem State.poke_of_plain (h : s.plain a = true) (v : Byte) : s.poke a v = s.store a v := by
  rw [State.plain] at h
  rw [State.poke, State.store]
  cases hplace : s.place a with
  | ram _ => rfl
  | ext _ => rfl
  | _ => rw [hplace] at h; cases h

theorem State.poke_of_not_plain (h : s.plain a = false) (v : Byte) : s.poke a v = s := by
  rw [State.plain] at h
  rw [State.poke]
  cases hplace : s.place a with
  | ram _ => rw [hplace] at h; cases h
  | ext _ => rw [hplace] at h; cases h
  | _ => rfl

theorem State.poke_parts (s : State) (a : Long) (v : Byte) :
    ∃ r m, s.poke a v = { s with ram := r, mem := m } := by
  rw [State.poke]
  cases s.place a <;> exact ⟨_, _, rfl⟩

theorem State.plain_poke (s : State) (a : Long) (v : Byte) (x : Long) : (s.poke a v).plain x = s.plain x := by
  obtain ⟨r, m, h⟩ := s.poke_parts a v
  rw [h]
  exact State.plain_congr rfl rfl x

theorem State.keeps_poke (s : State) (a : Long) (v : Byte) : s.keeps (s.poke a v) ⟨[a], []⟩ := by
  cases h : s.plain a with
  | true => rw [State.poke_of_plain h]; exact s.keeps_store a v |>.mono (by simp [mem_bytesAt_one]) (by simp)
  | false => rw [State.poke_of_not_plain h]; exact s.keeps_refl _

theorem State.peek_poke_of_not_plain {x : Long} (h : s.plain x = false) : (s.poke a v).peek x = s.peek x := by
  cases hplain : s.plain a with
  | false => rw [State.poke_of_not_plain hplain]
  | true =>
    refine (s.keeps_poke a v).1 x fun hx => ?_
    rw [List.mem_singleton.mp hx, hplain] at h
    cases h

variable (ws : List (Long × Byte))

theorem State.pokes_cons (s : State) (w : Long × Byte) : s.pokes (w :: ws) = (s.poke w.1 w.2).pokes ws := rfl

theorem State.pokes_append (s : State) (us : List (Long × Byte)) : s.pokes (us ++ ws) = (s.pokes us).pokes ws :=
  List.foldl_append ..

theorem State.pokes_parts (s : State) : ∃ r m, s.pokes ws = { s with ram := r, mem := m } := by
  induction ws generalizing s with
  | nil => exact ⟨_, _, rfl⟩
  | cons w ws ih =>
    obtain ⟨r, m, h⟩ := s.poke_parts w.1 w.2
    obtain ⟨r', m', h'⟩ := ih (s.poke w.1 w.2)
    exact ⟨r', m', by rw [State.pokes_cons, h', h]⟩

theorem State.plain_pokes (s : State) (x : Long) : (s.pokes ws).plain x = s.plain x := by
  obtain ⟨r, m, h⟩ := s.pokes_parts ws
  rw [h]
  exact State.plain_congr rfl rfl x

theorem State.keeps_pokes (s : State) : s.keeps (s.pokes ws) ⟨ws.map (·.1), []⟩ := by
  induction ws generalizing s with
  | nil => exact s.keeps_refl _
  | cons w ws ih => exact (s.keeps_poke w.1 w.2).trans (ih _)

theorem State.peek_pokes_of_not_plain {x : Long} (h : s.plain x = false) : (s.pokes ws).peek x = s.peek x := by
  induction ws generalizing s with
  | nil => rfl
  | cons w ws ih => exact (ih ((s.plain_poke _ _ x).trans h)).trans (State.peek_poke_of_not_plain h)

/-- The last byte named for an address is the one it holds. -/
theorem State.peek_pokes_last (hinv : s.Inv) (pre : List (Long × Byte)) {post : List (Long × Byte)}
    (hpost : ∀ w ∈ post, w.1 ≠ a) (hplain : s.plain a = true) : (s.pokes (pre ++ (a, v) :: post)).peek a = some v := by
  have hplain' : (s.pokes pre).plain a = true := (s.plain_pokes pre a).trans hplain
  have hlater : a ∉ post.map (·.1) := fun h => by
    obtain ⟨w, hw, he⟩ := List.mem_map.mp h
    exact hpost w hw he
  rw [State.pokes_append, State.pokes_cons]
  refine ((State.keeps_pokes post _).1 a hlater).trans ?_
  rw [State.poke_of_plain hplain']
  exact State.peek_store_plain v (hinv.pokes pre).wf hplain'

end Poke

/-- Settles O60. -/
theorem macroServiceAndStandby : Obligations.MacroServiceAndStandby := by
  refine ⟨fun s b bs h hreset hnone => ?_, fun s b bs h hrelease => ?_⟩
  · obtain ⟨hnmi, hwdt⟩ := Bool.or_eq_false_iff.mp hnone
    refine ⟨fun ws hms hhold hafter hdead => ?_, fun hms hreq hrelease hstopped => ?_⟩
    · let u : State := (s.opening b bs).tell (.macroService ws)
      have hu (f : Footprint) : s.keeps u f := State.keeps_of_same ⟨rfl, rfl⟩ rfl rfl rfl f
      have hevent := State.event_macroService ⟨hreset, hhold, hafter, hdead⟩ hnmi hwdt hms
      refine ⟨u.pokes ws, step_of_macroStep h hevent, ?_,
        (hu _).trans_same (u.keeps_pokes ws), fun a ha => ?_, fun hinv a v pre post hws hpost hplain => ?_⟩
      · obtain ⟨r, m, hparts⟩ := u.pokes_parts ws
        rw [hparts]
        rfl
      · exact (State.peek_pokes_of_not_plain (s := u) ws ((State.plain_congr rfl rfl a).trans ha)).trans
          ((hu Footprint.nothing).1 a (List.not_mem_nil))
      · rw [hws]
        exact State.peek_pokes_last (s := u) (hinv.of_same rfl rfl rfl rfl rfl rfl) pre hpost
          ((State.plain_congr rfl rfl a).trans hplain)
    · have hproceed : s.event b = .proceed := by
        refine (s.event_eq_proceed_iff b).mpr ⟨hreset, .inr (.inr (.inr ⟨?_, ?_, hms, ?_⟩))⟩
        · rw [hnmi]; rfl
        · rw [hwdt]; rfl
        · intro r hr; rw [hreq] at hr; cases hr
      have hstays : (s.opening b bs).stopped = true := by rw [State.opening, hstopped, hrelease]; rfl
      rw [step_of_cons h, hproceed, State.react_idle (by rw [hstays]; rfl), State.opening, hstopped, hrelease]
      rfl
  · rw [step_of_cons h, step_of_cons (s := { s with stopped := false, inputs := { b with release := false } :: bs }) rfl,
      State.opening, hrelease, Bool.not_true, Bool.and_false]
    rfl

/-! ## RESET -/

theorem run_resetVector {s : State} {w : Word} (h : s.peek16 0 = some w) :
    run resetVector s = .next { s with pc := w.setWidth 20 } := by
  obtain ⟨hword, hread⟩ := State.look16_of_peek h
  exact run_bind_ok _ ((readMem16_of hread).trans (congrArg _ hword))

/-- Settles O8. -/
theorem resetInput : Obligations.ResetInput := by
  refine ⟨fun s b bs w h hreset hword => ?_, fun s hdead hnone => ?_, fun s r => ?_⟩
  · have hevent : s.event b = .reset := by rw [State.event, if_pos hreset]
    let u := (s.opening b bs).initialized
    have hpeek (a : Long) : u.peek a = ({ s with loc0f := false } : State).peek a :=
      State.peek_congr (s := { s with loc0f := false }) (t := u) rfl rfl rfl rfl a
    have hvector : u.peek16 0 = some w := (State.peek16_congr (hpeek _) (hpeek _)).trans hword
    exact ⟨{ u with pc := w.setWidth 20 }, step_of_taken h hevent nofun (run_resetVector hvector),
      rfl, rfl, rfl, rfl, rfl, rfl, rfl, rfl, rfl, rfl, rfl, rfl, rfl, rfl⟩
  · cases hinputs : s.inputs with
    | nil =>
      have hproceed := (s.event_eq_proceed_iff Boundary.none).mpr ⟨rfl, .inl hdead⟩
      rw [step_of_nil hinputs, hproceed, State.react_idle (by rw [State.opening, hdead, Bool.or_true])]
      exact ⟨_, rfl, rfl⟩
    | cons b bs =>
      rw [hinputs] at hnone
      have hproceed := (s.event_eq_proceed_iff b).mpr ⟨hnone b rfl, .inl hdead⟩
      rw [step_of_cons hinputs, hproceed, State.react_idle (by rw [State.opening, hdead, Bool.or_true])]
      exact ⟨_, rfl, rfl⟩
  · cases hinputs : s.inputs with
    | nil => rw [step_of_nil hinputs]; exact State.react_ne_fault _ r
    | cons b bs => rw [step_of_cons hinputs]; exact State.react_ne_fault _ r

end Sys2Proof.Machine
end

section
/-! PUSH and PUSHU of a list of pairs: each pair below the one before (O40, O42; 49_stack R605, R607). -/

namespace Sys2Proof.Machine

/-! ## Addresses of a run of bytes -/

theorem mem_bytesAt {a x : Long} {n : Nat} (hn : n ≤ 2 ^ 24) : x ∈ bytesAt a n ↔ (x - a).toNat < n := by
  simp only [bytesAt, List.mem_map, List.mem_range]
  constructor
  · rintro ⟨i, hi, rfl⟩
    bv_omega
  · intro h
    exact ⟨(x - a).toNat, h, by rw [BitVec.ofNat_toNat, BitVec.setWidth_eq]; bv_omega⟩

/-- The `k` words below `p` lie among the `n` words below it. -/
theorem mem_words_below {p x : Long} {k n : Nat} (hn : n ≤ 8) (hk : k ≤ n)
    (h : x ∈ bytesAt (p - BitVec.ofNat 24 (2 * k)) (2 * k)) : x ∈ bytesAt (p - BitVec.ofNat 24 (2 * n)) (2 * n) := by
  rw [mem_bytesAt (by omega)] at h ⊢
  bv_omega

/-- Below `p` lie the word there and those below it. -/
theorem mem_words_succ {p x : Long} {n : Nat} (hn : n < 8) :
    x ∈ bytesAt (p - BitVec.ofNat 24 (2 * (n + 1))) (2 * (n + 1)) ↔
      x ∈ bytesAt (p - 2) 2 ∨ x ∈ bytesAt (p - 2 - BitVec.ofNat 24 (2 * n)) (2 * n) := by
  rw [mem_bytesAt (by omega), mem_bytesAt (by omega), mem_bytesAt (by omega)]
  constructor
  · intro h; bv_omega
  · rintro (h | h) <;> bv_omega

/-! ## Register pairs as bytes (R53) -/

section Registers

variable {s t : State} {f : Footprint} {b : BitVec 3} {m n : RP} {a : Long}

theorem State.footRpOf_congr (h : s.SameMap t) : t.footRpOf b n = s.footRpOf b n := by
  simp only [State.footRpOf, State.ramAddr_congr h]

/-- Where no byte of a pair changes, the pair does not. -/
theorem State.rpOf_of_keeps (hmap : s.SameMap t) (hkeeps : ∀ a ∈ (s.footRpOf b n).bytes, t.peek a = s.peek a) :
    t.rpOf b n = s.rpOf b n := by
  obtain ⟨hlo, hhi⟩ := pairKey_range b n
  have byte (k : Nat) (h0 : 0xFD00 ≤ k) (h1 : k < 0xFF00) (hk : s.ramAddr k ∈ (s.footRpOf b n).bytes) :
      t.ram8 k = s.ram8 k := by
    have hpeek := hkeeps _ hk
    rw [← State.ramAddr_congr hmap, State.peek_ramAddr h0 h1, State.ramAddr_congr hmap,
      State.peek_ramAddr h0 h1] at hpeek
    exact Option.some.inj hpeek
  rw [State.rpOf, State.rpOf, State.ram16, State.ram16, byte _ (by omega) (by omega) (by simp [State.footRpOf]),
    byte _ (by omega) (by omega) (by simp [State.footRpOf])]

theorem State.footRpOf_apart (h : m ≠ n) (ha : a ∈ (s.footRpOf b m).bytes) : a ∉ (s.footRpOf b n).bytes := by
  have hapart := pairKey_apart b h
  obtain ⟨-, hm⟩ := pairKey_range b m
  obtain ⟨-, hn⟩ := pairKey_range b n
  have addr {j k : Nat} (hj : j < 0xFF00) (hk : k < 0xFF00) (heq : s.ramAddr j = s.ramAddr k) : j = k := by
    have hnat := congrArg BitVec.toNat heq
    rw [State.ramAddr_toNat (by omega), State.ramAddr_toNat (by omega)] at hnat
    omega
  simp only [State.footRpOf, List.mem_cons, List.not_mem_nil, or_false] at ha ⊢
  rintro (hb | hb) <;> rcases ha with rfl | rfl <;> have := addr (by omega) (by omega) hb <;> omega

end Registers

/-! ## Words saved below a pointer -/

/-- The `n` words below `p` are plain memory outside the registers of the bank. -/
def State.roomBelow (s : State) (p : Long) (n : Nat) : Prop :=
  ∀ a ∈ bytesAt (p - BitVec.ofNat 24 (2 * n)) (2 * n), s.plain a = true ∧ ∀ r : RP, a ∉ (s.footRp r).bytes

section Room

variable {s t : State} {p : Long} {n k : Nat} {w : Word}

theorem State.roomBelow.mono (h : s.roomBelow p n) (hn : n ≤ 8) (hk : k ≤ n) : s.roomBelow p k :=
  fun a ha => h a (mem_words_below hn hk ha)

theorem State.roomBelow.next (h : s.roomBelow p (n + 1)) (hn : n < 8) : s.roomBelow (p - 2) n :=
  fun a ha => h a ((mem_words_succ hn).mpr (.inr ha))

theorem State.roomBelow.congr (h : s.roomBelow p n) (hmap : s.SameMap t) (hbank : t.psw.rbs = s.psw.rbs) :
    t.roomBelow p n := fun a ha => by
  obtain ⟨hplain, hregs⟩ := h a ha
  refine ⟨(State.plain_congr hmap.1 hmap.2 a).trans hplain, fun r => ?_⟩
  rw [State.footRp, hbank, State.footRpOf_congr hmap]
  exact hregs r

theorem State.roomBelow.word (h : s.roomBelow p (n + 1)) (hn : n < 8) {a : Long} (ha : a ∈ bytesAt (p - 2) 2) :
    s.plain a = true ∧ ∀ r : RP, a ∉ (s.footRp r).bytes := h a ((mem_words_succ hn).mpr (.inl ha))

theorem State.roomBelow.plain (h : s.roomBelow p (n + 1)) (hn : n < 8) : s.plainN (p - 2) 2 = true :=
  State.plainN_two.mpr ⟨(h.word hn ((mem_bytesAt_two _ _).mpr (.inl rfl))).1,
    (h.word hn ((mem_bytesAt_two _ _).mpr (.inr rfl))).1⟩

/-- A word stored in that room leaves every register pair. -/
theorem State.roomBelow.rp_store16 (h : s.roomBelow p (n + 1)) (hn : n < 8) (w : Word) (r : RP) :
    (s.store16 (p - 2) w).rp r = s.rp r := by
  have hdata := s.store16_dataOf (p - 2) w
  obtain ⟨_, _, _, hparts⟩ := s.store16_parts (p - 2) w
  have hbank : (s.store16 (p - 2) w).psw.rbs = s.psw.rbs := by rw [hparts]
  rw [State.rp, State.rp, hbank]
  exact State.rpOf_of_keeps hdata.sameMap fun a ha =>
    (s.keeps_store16 (p - 2) w).1 a fun hword => (h.word hn hword).2 r ha

theorem State.store_plain_parts {a : Long} (ha : s.plain a = true) (v : Byte) :
    ∃ r m, s.store a v = { s with ram := r, mem := m } := by
  rw [← State.poke_of_plain ha]
  exact s.poke_parts a v

theorem State.store16_plain_parts (h : s.plainN (p - 2) 2 = true) (w : Word) :
    ∃ r m, s.store16 (p - 2) w = { s with ram := r, mem := m } := by
  obtain ⟨h0, h1⟩ := State.plainN_two.mp h
  rw [State.store16_of_plain w h0]
  obtain ⟨r, m, hlo⟩ := State.store_plain_parts h0 (w.extractLsb' 0 8)
  rw [hlo]
  obtain ⟨r', m', hhi⟩ := State.store_plain_parts (s := { s with ram := r, mem := m }) (a := p - 2 + 1)
    ((State.plain_congr rfl rfl _).trans h1) (w.extractLsb' 8 8)
  exact ⟨r', m', hhi⟩

end Room

/-- `t` holds, below `p`, a word for each of the pairs `ns`, related to it by `val`, and no other byte of it differs
from `s` but those of `extra`. -/
structure State.Saved (s t : State) (p : Long) (ns : List RP) (val : RP → Word → Prop) (extra : List Long) : Prop where
  words : ∀ i (h : i < ns.length), ∃ w, t.peek16 (p - BitVec.ofNat 24 (2 * (i + 1))) = some w ∧ val ns[i] w
  rest : ∀ a, a ∉ extra → a ∉ bytesAt (p - BitVec.ofNat 24 (2 * ns.length)) (2 * ns.length) → t.peek a = s.peek a

section Saved

variable {s t u : State} {p : Long} {n : RP} {ns : List RP} {val val' : RP → Word → Prop} {extra : List Long} {w : Word}

theorem State.Saved.nil : s.Saved s p [] val extra := ⟨fun i h => absurd h (Nat.not_lt_zero i), fun _ _ _ => rfl⟩

theorem State.Saved.mono (h : s.Saved t p ns val extra) (hval : ∀ n w, val n w → val' n w) : s.Saved t p ns val' extra :=
  ⟨fun i hi => (h.words i hi).imp fun _ hw => ⟨hw.1, hval _ _ hw.2⟩, h.rest⟩

/-- One word saved at `p - 2`, the others below it. -/
theorem State.Saved.cons (hlen : ns.length < 8) (hword : t.peek16 (p - 2) = some w) (hval : val n w)
    (hkept : ∀ a, a ∉ extra → a ∉ bytesAt (p - 2) 2 → t.peek a = s.peek a)
    (hapart : ∀ a ∈ bytesAt (p - 2) 2, a ∉ extra)
    (h : t.Saved u (p - 2) ns val extra) : s.Saved u p (n :: ns) val extra := by
  constructor
  · intro i hi
    cases i with
    | zero =>
      have hbyte (a : Long) (ha : a ∈ bytesAt (p - 2) 2) : u.peek a = t.peek a := by
        refine h.rest a (hapart a ha) fun hbelow => ?_
        rw [mem_bytesAt (by omega)] at ha hbelow
        bv_omega
      exact ⟨w, (State.peek16_of_peek hbyte).trans hword, hval⟩
    | succ i =>
      obtain ⟨v, hv, hval⟩ := h.words i (Nat.lt_of_succ_lt_succ hi)
      rw [show p - 2 - BitVec.ofNat 24 (2 * (i + 1)) = p - BitVec.ofNat 24 (2 * (i + 1 + 1)) by bv_omega] at hv
      exact ⟨v, hv, hval⟩
  · intro a hextra ha
    rw [List.length_cons, mem_words_succ hlen, not_or] at ha
    exact (h.rest a hextra ha.2).trans (hkept a hextra ha.1)

end Saved

/-! ## PUSH of a list -/

/-- The pairs pushed one after the other. -/
def pushAll : List RP → Act Unit
  | [] => return ()
  | n :: ns => do
    let s ← get
    push16 (s.rp n)
    pushAll ns

theorem selected_cons_of {p : Nat × RP} {ps : List (Nat × RP)} {post : Byte} (h : post.getLsbD p.1 = true) :
    selected (p :: ps) post = p.2 :: selected ps post := by
  simp [selected, h]

theorem selected_cons_of_not {p : Nat × RP} {ps : List (Nat × RP)} {post : Byte} (h : ¬post.getLsbD p.1 = true) :
    selected (p :: ps) post = selected ps post := by
  simp [selected, h]

theorem selected_length_le (ps : List (Nat × RP)) (post : Byte) : (selected ps post).length ≤ ps.length := by
  rw [selected, List.length_map]
  exact List.length_filter_le _ _

theorem pushPairs_eq (ps : List (Nat × RP)) (post : Byte) : pushPairs ps post = pushAll (selected ps post) := by
  induction ps with
  | nil => rfl
  | cons p ps ih =>
    by_cases h : post.getLsbD p.1 = true
    · rw [selected_cons_of h, pushPairs, ih, if_pos h]
      rfl
    · rw [selected_cons_of_not h, pushPairs, ih, if_neg h]

/-- A word pushed in the room below SP. -/
theorem State.push16_plain_parts {s : State} {n : Nat} (hroom : s.roomBelow s.sp (n + 1)) (hn : n < 8)
    (hsp : s.spHolds (s.sp - 2)) (w : Word) :
    ∃ r m, s.push16 w = { s with sp := s.sp - 2, ram := r, mem := m } := by
  obtain ⟨r, m, hparts⟩ := State.store16_plain_parts (hroom.plain hn) w
  refine ⟨r, m, ?_⟩
  rw [State.push16, hparts]
  exact congrArg (fun v => { s with sp := v, ram := r, mem := m }) hsp

theorem pushAll_saves (ns : List RP) {s : State} (hwf : s.wf) (hlen : ns.length ≤ 8)
    (hsp : ∀ k ≤ ns.length, s.spHolds (s.sp - BitVec.ofNat 24 (2 * k))) (hroom : s.roomBelow s.sp ns.length) :
    ∃ t, pushAll ns s = .ok ((), t) ∧ t.sp = s.sp - BitVec.ofNat 24 (2 * ns.length) ∧
      s.Saved t s.sp ns (fun n w => w = s.rp n) [] ∧ t = { s with sp := t.sp, ram := t.ram, mem := t.mem } := by
  induction ns generalizing s with
  | nil => exact ⟨s, rfl, by simp, .nil, rfl⟩
  | cons n ns ih =>
    have hlen' : ns.length < 8 := hlen
    have hplain := hroom.plain hlen'
    have hpush := push16_of (s.rp n) (State.writableN_of_plain hplain)
    have hpeek (a : Long) : (s.push16 (s.rp n)).peek a = (s.store16 (s.sp - 2) (s.rp n)).peek a := State.peek_setSp ..
    have hrp (k : RP) : (s.push16 (s.rp n)).rp k = s.rp k := hroom.rp_store16 hlen' (s.rp n) k
    have hwf' : (s.push16 (s.rp n)).wf := State.wf_of_same (State.wf_store16 (s.sp - 2) (s.rp n) hwf) rfl rfl
    obtain ⟨r, m, hu⟩ := State.push16_plain_parts hroom hlen' (hsp 1 (by simp)) (s.rp n)
    generalize s.push16 (s.rp n) = u at hpush hpeek hrp hwf' hu
    have husp : u.sp = s.sp - 2 := by rw [hu]
    have hmap : s.SameMap u := by rw [hu]; exact ⟨rfl, rfl⟩
    have hbank : u.psw.rbs = s.psw.rbs := by rw [hu]
    have hnext (k : Nat) : s.sp - 2 - BitVec.ofNat 24 (2 * k) = s.sp - BitVec.ofNat 24 (2 * (k + 1)) := by bv_omega
    have hholds (k : Nat) (hk : k ≤ ns.length) : u.spHolds (u.sp - BitVec.ofNat 24 (2 * k)) := by
      rw [State.spHolds, hmap.1, husp, hnext]
      exact hsp (k + 1) (Nat.succ_le_succ hk)
    obtain ⟨t, hrun, htsp, hsaved, ht⟩ :=
      ih hwf' (Nat.le_of_lt hlen') hholds (husp ▸ (hroom.next hlen').congr hmap hbank)
    rw [husp] at htsp hsaved
    refine ⟨t, ?_, ?_, ?_, ?_⟩
    · rw [pushAll, bind_get, bind_of _ hpush]
      exact hrun
    · rw [htsp, hnext, List.length_cons]
    · have hword := (State.peek16_congr (hpeek _) (hpeek _)).trans (State.peek16_store16 (s.rp n) hwf hplain)
      refine State.Saved.cons hlen' hword rfl
        (fun a _ ha => (hpeek a).trans ((s.keeps_store16 _ _).1 a ha)) (fun _ _ => List.not_mem_nil) (hsaved.mono ?_)
      rintro k v rfl
      exact hrp k
    · rw [ht, hu]

/-- Settles O40. -/
theorem pushListSaves : Obligations.PushListSaves := by
  intro s post hinv ps hsp hroom
  have hlen : ps.length ≤ 8 := selected_length_le savePairs post
  obtain ⟨t, hrun, htsp, hsaved, ht⟩ := pushAll_saves ps hinv.wf hlen (fun k hk => hsp k (Nat.le_trans hk hlen))
    (State.roomBelow.mono (n := 8) hroom (Nat.le_refl 8) hlen)
  refine ⟨t, ?_, htsp, fun i hi => ?_, ht, fun a ha => hsaved.rest a List.not_mem_nil (htsp ▸ ha), fun i _ => by rw [ht]⟩
  · show execPush (.post post) s = _
    rw [execPush]
    rw [pushPairs_eq]
    exact run_of_ok hrun
  · obtain ⟨w, hw, rfl⟩ := hsaved.words i hi
    exact hw

/-! ## PUSHU -/

/-- What a pair stands for in the list of a PUSHU: the PSW in the place of UP (R601). -/
def State.pushuWord (s : State) (n : RP) : Word × State := if n = .rp5 then s.lookPsw else (s.rp n, s)

/-- The items pushed one after the other on the user stack. -/
def pushuAll : List RP → Act Unit
  | [] => return ()
  | n :: ns => do
    let s ← get
    set (s.pushuWord n).2
    writeMem16 (s.rg .uup - 2) (s.pushuWord n).1
    modify fun t => t.setRg .uup (t.rg .uup - 2)
    pushuAll ns

theorem pushuPairs_eq (ps : List (Nat × RP)) (hps : ∀ p ∈ ps, p.1 = 5 ↔ p.2 = .rp5) (post : Byte) :
    pushuPairs ps post = pushuAll (selected ps post) := by
  induction ps with
  | nil => rfl
  | cons p ps ih =>
    have ih := ih fun q hq => hps q (List.mem_cons_of_mem _ hq)
    have hitem (s : State) : s.pushuItem p = s.pushuWord p.2 := by
      simp only [State.pushuItem, State.pushuWord, hps p (List.mem_cons_self ..)]
    by_cases h : post.getLsbD p.1 = true
    · rw [selected_cons_of h, pushuPairs, ih, if_pos h, pushuAll]
      simp only [hitem]
    · rw [selected_cons_of_not h, pushuPairs, ih, if_neg h]

theorem bind_modify {β : Type} (g : State → State) (f : PUnit → Act β) (s : State) :
    (modify g >>= f) s = f ⟨⟩ (g s) := rfl

section Pushu

variable {s t : State} {f : Footprint} {n : RP} {w : Word}

/-- The words PUSHU saves: the PSW, its bits without storage undefined, or the pair. -/
def State.savesAs (s : State) (n : RP) (w : Word) : Prop :=
  ∃ nib : BitVec 4, w = if n = .rp5 then s.psw.high nib ++ s.psw.low else s.rp n

theorem State.pushuWord_parts (s : State) (n : RP) : ∃ d, (s.pushuWord n).2 = { s with draws := d } := by
  by_cases h : n = .rp5
  · exact ⟨s.draws + 1, by rw [State.pushuWord, if_pos h]; rfl⟩
  · exact ⟨s.draws, by rw [State.pushuWord, if_neg h]⟩

theorem State.savesAs_pushuWord (s : State) (n : RP) : s.savesAs n (s.pushuWord n).1 := by
  by_cases h : n = .rp5
  · exact ⟨(Config.undef s.draws).extractLsb' 0 4, by rw [State.pushuWord, if_pos h, if_pos h]; rfl⟩
  · exact ⟨0, by rw [State.pushuWord, if_neg h, if_neg h]⟩

theorem State.savesAs_congr (hpsw : t.psw = s.psw) (hrp : n ≠ .rp5 → t.rp n = s.rp n) (h : t.savesAs n w) :
    s.savesAs n w := by
  obtain ⟨nib, rfl⟩ := h
  refine ⟨nib, ?_⟩
  by_cases hn : n = .rp5
  · rw [if_pos hn, if_pos hn, hpsw]
  · rw [if_neg hn, if_neg hn, hrp hn]

variable {k : Nat}

/-- What one item of PUSHU does, in the room below UUP. -/
structure State.Pushed (s t : State) (n : RP) (w : Word) : Prop where
  run : ∀ ns, pushuAll (n :: ns) s = pushuAll ns t
  parts : t = { s with ram := t.ram, mem := t.mem, vutw := t.vutw, draws := t.draws }
  wf : t.wf
  uup : t.rg .uup = s.rg .uup - 2
  word : t.peek16 (s.rg .uup - 2) = some w
  saves : s.savesAs n w
  rp : ∀ r, r ≠ .rp5 → t.rp r = s.rp r
  keeps : s.keeps t ((s.footRg .uup).and ⟨bytesAt (s.rg .uup - 2) 2, []⟩)

theorem State.pushed_of_room (hwf : s.wf) (hroom : s.roomBelow (s.rg .uup) (k + 1)) (hk : k < 8) (n : RP) :
    ∃ t w, s.Pushed t n w := by
  obtain ⟨d, hlook⟩ := s.pushuWord_parts n
  have hsaves := s.savesAs_pushuWord n
  have hrun (ns : List RP) : pushuAll (n :: ns) s = (writeMem16 (s.rg .uup - 2) (s.pushuWord n).1 >>= fun _ =>
      modify (fun t => t.setRg .uup (t.rg .uup - 2)) >>= fun _ => pushuAll ns) (s.pushuWord n).2 := rfl
  rw [hlook] at hrun
  generalize (s.pushuWord n).1 = w at hrun hsaves
  have hroom' : ({ s with draws := d } : State).roomBelow (s.rg .uup) (k + 1) := hroom.congr ⟨rfl, rfl⟩ rfl
  have hplain := hroom'.plain hk
  have hwrite := writeMem16_of w (State.writableN_of_plain hplain)
  have hrp (r : RP) := hroom'.rp_store16 hk w r
  have hword := State.peek16_store16 w (s := { s with draws := d }) hwf hplain
  have hkeeps : s.keeps _ _ := (s.keeps_rest s.pc s.psw s.sp s.io d _).trans_same
    (State.keeps_store16 { s with draws := d } (s.rg .uup - 2) w)
  have hwf' := State.wf_store16 (s.rg .uup - 2) w (s := { s with draws := d }) hwf
  obtain ⟨r, m, hstore⟩ := State.store16_plain_parts hplain w
  rw [hstore] at hrp hword hkeeps hwf' hwrite
  let v : State := { s with draws := d, ram := r, mem := m }
  have huup : v.rg .uup = s.rg .uup := append_congr rfl (hrp .rp5)
  have hfoot : v.footRg .uup = s.footRg .uup := State.footRg_congr ⟨rfl, rfl⟩ rfl .uup
  have hset := v.keeps_setRg .uup (s.rg .uup - 2)
  rw [hfoot] at hset
  have hbyte (a : Long) (ha : a ∈ bytesAt (s.rg .uup - 2) 2) : (v.setRg .uup (s.rg .uup - 2)).peek a = v.peek a :=
    hset.1 a ((hroom.word hk ha).2 .rp5)
  refine ⟨v.setRg .uup (s.rg .uup - 2), w, fun ns => ?_, rfl, State.wf_setRg .uup _ hwf', State.rg_setRg .uup _ hwf'.1,
    (State.peek16_of_peek hbyte).trans hword, hsaves, fun q hq => (State.rp_setRp_other _ hq).trans (hrp q), (hkeeps.trans hset).mono ?_ ?_⟩
  · rw [hrun, bind_of _ hwrite]
    exact (bind_modify _ _ v).trans (by rw [huup])
  · intro a ha
    exact List.mem_append.mpr (List.mem_append.mp ha).symm
  · intro a ha
    exact List.mem_append.mpr (List.mem_append.mp ha).symm

theorem pushuAll_saves (ns : List RP) {s : State} (hwf : s.wf) (hlen : ns.length ≤ 8)
    (hroom : s.roomBelow (s.rg .uup) ns.length) :
    ∃ t, pushuAll ns s = .ok ((), t) ∧ t.rg .uup = s.rg .uup - BitVec.ofNat 24 (2 * ns.length) ∧
      s.Saved t (s.rg .uup) ns s.savesAs (s.footRg .uup).bytes ∧
      t = { s with ram := t.ram, mem := t.mem, vutw := t.vutw, draws := t.draws } ∧
      ∀ i : Fin 32, i ∉ (s.footRg .uup).exts → t.vutw[i] = s.vutw[i] := by
  induction ns generalizing s with
  | nil => exact ⟨s, rfl, by simp, .nil, rfl, fun _ _ => rfl⟩
  | cons n ns ih =>
    have hlen' : ns.length < 8 := hlen
    obtain ⟨u, w, hrun, hu, hwf', huup, hword, hsaves, hrp, hkeeps⟩ := State.pushed_of_room hwf hroom hlen' n
    have hmap : s.SameMap u := by rw [hu]; exact ⟨rfl, rfl⟩
    have hpsw : u.psw = s.psw := by rw [hu]
    obtain ⟨t, hrest, htuup, hsaved, ht, hexts⟩ :=
      ih hwf' (Nat.le_of_lt hlen') (huup ▸ (hroom.next hlen').congr hmap (by rw [hpsw]))
    rw [huup] at htuup hsaved
    rw [State.footRg_congr hmap (by rw [hpsw])] at hsaved hexts
    refine ⟨t, (hrun ns).trans hrest, ?_, ?_, by rw [ht, hu], fun i hi => ?_⟩
    · rw [htuup, List.length_cons]
      bv_omega
    · refine State.Saved.cons hlen' hword hsaves (fun a hextra ha => hkeeps.1 a ?_)
        (fun a ha => (hroom.word hlen' ha).2 .rp5) (hsaved.mono fun k v => State.savesAs_congr hpsw (hrp k))
      exact fun hmem => (List.mem_append.mp hmem).elim hextra ha
    · exact (hexts i hi).trans (hkeeps.2 i fun hmem => (List.mem_append.mp hmem).elim hi List.not_mem_nil)

end Pushu

/-- Settles O42. -/
theorem pushuSaves : Obligations.PushuSaves := by
  intro s post hinv ps u hroom
  have hlen : ps.length ≤ 8 := selected_length_le savePairs post
  obtain ⟨t, hrun, huup, hsaved, ht, hexts⟩ := pushuAll_saves ps hinv.wf hlen
    (State.roomBelow.mono (n := 8) hroom (Nat.le_refl 8) hlen)
  refine ⟨t, ?_, huup, fun i hi => ?_, ht, fun a ha => ?_,
    fun i hi => hexts i fun h => hi (List.mem_append.mpr (.inl h))⟩
  · show execPushu post s = _
    rw [execPushu, pushuPairs_eq savePairs (by decide)]
    exact run_of_ok hrun
  · obtain ⟨w, hw, nib, rfl⟩ := hsaved.words i hi
    exact ⟨nib, hw⟩
  · exact hsaved.rest a (fun h => ha (List.mem_append.mpr (.inl h))) fun h => ha (List.mem_append.mpr (.inr h))

end Sys2Proof.Machine
end

section
/-! POP and POPU of a list of pairs (O41, O43; 49_stack R611, R613). -/

namespace Sys2Proof.Machine

/-! ## The words a list is popped from -/

/-- The `n` words from `p` on lie outside the registers of the bank. -/
def State.apartAbove (s : State) (p : Long) (n : Nat) : Prop :=
  ∀ a ∈ bytesAt p (2 * n), ∀ r : RP, a ∉ (s.footRp r).bytes

/-- The bytes of a list of pairs. -/
def State.footList (s : State) (ns : List RP) : List Long := (ns.map fun n => (s.footRp n).bytes).flatten

theorem selected_nodup {ps : List (Nat × RP)} (h : (ps.map (·.2)).Nodup) (post : Byte) : (selected ps post).Nodup :=
  h.sublist (List.filter_sublist.map _)

theorem mem_words_above {p x : Long} {k n : Nat} (hn : n ≤ 8) (hk : k ≤ n) (h : x ∈ bytesAt p (2 * k)) :
    x ∈ bytesAt p (2 * n) := by
  rw [mem_bytesAt (by omega)] at h ⊢
  omega

theorem mem_word_above {p x : Long} {i n : Nat} (hn : n ≤ 8) (hi : i < n)
    (h : x ∈ bytesAt (p + BitVec.ofNat 24 (2 * i)) 2) : x ∈ bytesAt p (2 * n) := by
  rw [mem_bytesAt (by omega)] at h ⊢
  bv_omega

theorem mem_words_above_succ {p x : Long} {n : Nat} (hn : n < 8) (h : x ∈ bytesAt (p + 2) (2 * n)) :
    x ∈ bytesAt p (2 * (n + 1)) := by
  rw [mem_bytesAt (by omega)] at h ⊢
  bv_omega

theorem next_word (p : Long) (i : Nat) : p + 2 + BitVec.ofNat 24 (2 * i) = p + BitVec.ofNat 24 (2 * (i + 1)) := by
  bv_omega

section Above

variable {s t : State} {p : Long} {n k i : Nat} {ns : List RP} {r q : RP} {w : Word} {f : Footprint}

theorem State.apartAbove.mono (h : s.apartAbove p n) (hn : n ≤ 8) (hk : k ≤ n) : s.apartAbove p k :=
  fun a ha => h a (mem_words_above hn hk ha)

theorem State.footList_congr (hmap : s.SameMap t) (hbank : t.psw.rbs = s.psw.rbs) (ns : List RP) :
    t.footList ns = s.footList ns := by
  simp only [State.footList, State.footRp, hbank, State.footRpOf_congr hmap]

theorem State.apartAbove.next (h : s.apartAbove p (n + 1)) (hn : n < 8) (hmap : s.SameMap t)
    (hbank : t.psw.rbs = s.psw.rbs) : t.apartAbove (p + 2) n := fun a ha r => by
  rw [State.footRp, hbank, State.footRpOf_congr hmap]
  exact h a (mem_words_above_succ hn ha) r

/-- A word above stays where only registers change. -/
theorem State.apartAbove.peek16 (h : s.apartAbove p n) (hn : n ≤ 8) (hi : i < n) (hkeeps : s.keeps t f)
    (hf : ∀ a ∈ f.bytes, ∃ r : RP, a ∈ (s.footRp r).bytes) (hword : s.peek16 (p + BitVec.ofNat 24 (2 * i)) = some w) :
    t.peek16 (p + BitVec.ofNat 24 (2 * i)) = some w := by
  have hbyte (a : Long) (ha : a ∈ bytesAt (p + BitVec.ofNat 24 (2 * i)) 2) : t.peek a = s.peek a :=
    hkeeps.1 a fun hmem => (hf a hmem).elim fun r hr => h a (mem_word_above hn hi ha) r hr
  exact (State.peek16_of_peek hbyte).trans hword

theorem State.mem_footList {a : Long} : a ∈ s.footList ns ↔ ∃ r ∈ ns, a ∈ (s.footRp r).bytes := by
  rw [State.footList, List.mem_flatten]
  constructor
  · rintro ⟨l, hl, ha⟩
    obtain ⟨r, hr, rfl⟩ := List.mem_map.mp hl
    exact ⟨r, hr, ha⟩
  · rintro ⟨r, hr, ha⟩
    exact ⟨_, List.mem_map.mpr ⟨r, hr, rfl⟩, ha⟩

/-- A pair keeps its value where only other pairs change. -/
theorem State.rp_of_keeps_others (hmap : s.SameMap t) (hbank : t.psw.rbs = s.psw.rbs) (hkeeps : s.keeps t f)
    (hf : ∀ a ∈ f.bytes, ∃ q, r ≠ q ∧ a ∈ (s.footRp q).bytes) : t.rp r = s.rp r := by
  rw [State.rp, State.rp, hbank]
  refine State.rpOf_of_keeps hmap fun a ha => hkeeps.1 a fun hmem => ?_
  obtain ⟨q, hq, hfoot⟩ := hf a hmem
  exact State.footRpOf_apart hq ha hfoot

theorem State.footList_others (hr : r ∉ ns) {a : Long} (ha : a ∈ s.footList ns) :
    ∃ q, r ≠ q ∧ a ∈ (s.footRp q).bytes := by
  obtain ⟨q, hq, hfoot⟩ := State.mem_footList.mp ha
  exact ⟨q, by rintro rfl; exact hr hq, hfoot⟩

end Above

/-! ## POP of a list -/

/-- The pairs popped one after the other. -/
def popAll : List RP → Act Unit
  | [] => return ()
  | n :: ns => do
    let w ← pop16
    modify (·.setRp n w)
    popAll ns

theorem popPairs_eq (ps : List (Nat × RP)) (post : Byte) : popPairs ps post = popAll (selected ps post) := by
  induction ps with
  | nil => rfl
  | cons p ps ih =>
    by_cases h : post.getLsbD p.1 = true
    · rw [selected_cons_of h, popPairs, ih, if_pos h]
      rfl
    · rw [selected_cons_of_not h, popPairs, ih, if_neg h]

theorem popAll_restores (ns : List RP) {s : State} {w : Nat → Word} (hwf : s.wf) (hlen : ns.length ≤ 8)
    (hnodup : ns.Nodup) (hsp : ∀ k ≤ ns.length, s.spHolds (s.sp + BitVec.ofNat 24 (2 * k))) (hapart : s.apartAbove s.sp ns.length)
    (hwords : ∀ i < ns.length, s.peek16 (s.sp + BitVec.ofNat 24 (2 * i)) = some (w i)) :
    ∃ t, popAll ns s = .ok ((), t) ∧ t.sp = s.sp + BitVec.ofNat 24 (2 * ns.length) ∧
      (∀ i (h : i < ns.length), t.rp ns[i] = w i) ∧ t = { s with sp := t.sp, ram := t.ram } ∧
      s.keeps t ⟨s.footList ns, []⟩ := by
  induction ns generalizing s w with
  | nil => exact ⟨s, rfl, by simp, fun i h => absurd h (Nat.not_lt_zero i), rfl, s.keeps_refl _⟩
  | cons n ns ih =>
    have hlen' : ns.length < 8 := hlen
    obtain ⟨hnew, hnodup⟩ := List.nodup_cons.mp hnodup
    have hfirst : s.peek16 s.sp = some (w 0) := by simpa using hwords 0 (Nat.zero_lt_succ _)
    obtain ⟨hlook, hread⟩ := State.look16_of_peek hfirst
    have hsp2 : (s.sp + 2) &&& s.cfg.spMask = s.sp + 2 := hsp 1 (by simp)
    have hpop : pop16 s = .ok (w 0, { s with sp := s.sp + 2 }) := by
      rw [pop16_of hread, State.pop16, hlook, State.setSp, hsp2]
    let u : State := { s with sp := s.sp + 2 }.setRp n (w 0)
    have hkeeps : s.keeps u (s.footRp n) := (s.keeps_rest s.pc s.psw (s.sp + 2) s.io s.draws _).trans_same
      (State.keeps_setRp { s with sp := s.sp + 2 } n (w 0))
    have hholds (k : Nat) (hk : k ≤ ns.length) : u.spHolds (u.sp + BitVec.ofNat 24 (2 * k)) := by
      show s.spHolds (s.sp + 2 + BitVec.ofNat 24 (2 * k))
      rw [next_word]
      exact hsp (k + 1) (Nat.succ_le_succ hk)
    have hrest (i : Nat) (hi : i < ns.length) : u.peek16 (u.sp + BitVec.ofNat 24 (2 * i)) = some (w (i + 1)) := by
      show u.peek16 (s.sp + 2 + BitVec.ofNat 24 (2 * i)) = _
      rw [next_word]
      exact hapart.peek16 hlen (Nat.succ_lt_succ hi) hkeeps (fun a ha => ⟨n, ha⟩) (hwords (i + 1) (Nat.succ_lt_succ hi))
    have hwf' : u.wf := State.wf_setRam16 _ _ hwf
    obtain ⟨t, hrun, htsp, hregs, ht, hkeeps'⟩ := ih (w := fun i => w (i + 1)) hwf' (Nat.le_of_lt hlen') hnodup hholds
      (hapart.next hlen' ⟨rfl, rfl⟩ rfl) hrest
    have hpsw : t.psw = u.psw := by rw [ht]
    have hmap : u.SameMap t := by rw [ht]; exact ⟨rfl, rfl⟩
    refine ⟨t, ?_, ?_, fun i hi => ?_, ?_, ?_⟩
    · rw [popAll, bind_of _ hpop]
      exact (bind_modify _ _ _).trans hrun
    · rw [htsp, List.length_cons, ← next_word]
      rfl
    · cases i with
      | zero =>
        have hlater := State.rp_of_keeps_others hmap (by rw [hpsw]) hkeeps' fun _ => State.footList_others hnew
        exact hlater.trans (State.rp_setRp n _ hwf.1)
      | succ i => exact hregs i (Nat.lt_of_succ_lt_succ hi)
    · rw [ht]
      rfl
    · exact hkeeps.trans hkeeps'

/-- Settles O41. -/
theorem popListRestores : Obligations.PopListRestores := by
  intro s post w hinv ps hsp hapart hwords
  have hlen : ps.length ≤ 8 := selected_length_le restorePairs post
  obtain ⟨t, hrun, ht⟩ := popAll_restores ps hinv.wf hlen (selected_nodup (ps := restorePairs) (by decide) post)
    (fun k hk => hsp k (Nat.le_trans hk hlen)) (State.apartAbove.mono (n := 8) hapart (Nat.le_refl 8) hlen) hwords
  refine ⟨t, ?_, ht⟩
  show execPop (.post post) s = _
  rw [execPop, popPairs_eq]
  exact run_of_ok hrun

/-! ## POPU -/

/-- The items popped one after the other from the user stack; the last word for the PSW is handed on (R613, D26). -/
def popuAll (psw : Option Word) : List RP → Act (Option Word)
  | [] => return psw
  | n :: ns => do
    let s ← get
    let w ← readMem16 (s.rg .uup)
    modify fun t => t.setRg .uup (t.rg .uup + 2)
    if n = .rp5 then popuAll (some w) ns
    else
      modify (·.setRp n w)
      popuAll psw ns

theorem popuPairs_eq (ps : List (Nat × RP)) (hps : ∀ p ∈ ps, p.1 = 5 ↔ p.2 = .rp5) (post : Byte) (psw : Option Word) :
    popuPairs ps post psw = popuAll psw (selected ps post) := by
  induction ps generalizing psw with
  | nil => rfl
  | cons p ps ih =>
    have ih := ih fun q hq => hps q (List.mem_cons_of_mem _ hq)
    by_cases h : post.getLsbD p.1 = true
    · rw [selected_cons_of h, popuPairs, if_pos h, popuAll]
      simp only [ih, hps p (List.mem_cons_self ..)]
    · rw [selected_cons_of_not h, popuPairs, ih, if_neg h]

section Popu

variable {s : State} {n : RP} {w : Word} {ns : List RP}

/-- What one item of POPU does: `u` is the state after it. -/
structure State.PopsTo (s u : State) (n : RP) (w : Word) : Prop where
  run : ∀ psw ns, popuAll psw (n :: ns) s = popuAll (if n = .rp5 then some w else psw) ns u
  parts : u = { s with ram := u.ram, vutw := u.vutw }
  wf : u.wf
  uup : u.rg .uup = s.rg .uup + 2
  rp : n ≠ .rp5 → u.rp n = w
  keeps : s.keeps u ((s.footRg .uup).and (s.footRp n))

theorem State.popsTo_of_word (hwf : s.wf) (hword : s.peek16 (s.rg .uup) = some w) (n : RP) : ∃ u, s.PopsTo u n w := by
  obtain ⟨hlook, hread⟩ := State.look16_of_peek hword
  have hpop : readMem16 (s.rg .uup) s = .ok (w, s) := (readMem16_of hread).trans (congrArg _ hlook)
  have hset := s.keeps_setRg .uup (s.rg .uup + 2)
  have huup : (s.setRg .uup (s.rg .uup + 2)).rg .uup = s.rg .uup + 2 := State.rg_setRg .uup _ hwf.1
  have hwf' : (s.setRg .uup (s.rg .uup + 2)).wf := State.wf_setRg .uup _ hwf
  have hrun (psw : Option Word) (ns : List RP) : popuAll psw (n :: ns) s =
      (if n = .rp5 then popuAll (some w) ns else modify (·.setRp n w) >>= fun _ => popuAll psw ns)
        (s.setRg .uup (s.rg .uup + 2)) := by
    rw [popuAll, bind_get, bind_of _ hpop]
    rfl
  by_cases hn : n = .rp5
  · refine ⟨s.setRg .uup (s.rg .uup + 2), fun psw ns => ?_, rfl, hwf', huup, absurd hn,
      hset.trans (State.keeps_refl _ _)⟩
    rw [hrun, if_pos hn, if_pos hn]
  · refine ⟨(s.setRg .uup (s.rg .uup + 2)).setRp n w, fun psw ns => ?_, rfl, State.wf_setRam16 _ _ hwf', ?_,
      fun _ => State.rp_setRp n w hwf'.1, hset.trans (State.keeps_setRp _ n w)⟩
    · rw [hrun, if_neg hn, if_neg hn]
      rfl
    · exact (append_congr rfl (State.rp_setRp_other w (Ne.symm hn))).trans huup

theorem popuAll_restores (ns : List RP) {s : State} {w : Nat → Word} (psw : Option Word) (hwf : s.wf)
    (hlen : ns.length ≤ 8) (hnodup : ns.Nodup) (hapart : s.apartAbove (s.rg .uup) ns.length)
    (hwords : ∀ i < ns.length, s.peek16 (s.rg .uup + BitVec.ofNat 24 (2 * i)) = some (w i)) :
    ∃ t q, popuAll psw ns s = .ok (q, t) ∧ t.rg .uup = s.rg .uup + BitVec.ofNat 24 (2 * ns.length) ∧
      (∀ i (h : i < ns.length), if ns[i] = .rp5 then q = some (w i) else t.rp ns[i] = w i) ∧
      (.rp5 ∉ ns → q = psw) ∧ t = { s with ram := t.ram, vutw := t.vutw } ∧
      s.keeps t ((s.footRg .uup).and ⟨s.footList ns, []⟩) := by
  induction ns generalizing s w psw with
  | nil => exact ⟨s, psw, rfl, by simp, fun i h => absurd h (Nat.not_lt_zero i), fun _ => rfl, rfl,
      s.keeps_refl _⟩
  | cons n ns ih =>
    have hlen' : ns.length < 8 := hlen
    obtain ⟨hnew, hnodup⟩ := List.nodup_cons.mp hnodup
    have hfirst : s.peek16 (s.rg .uup) = some (w 0) := by simpa using hwords 0 (Nat.zero_lt_succ _)
    obtain ⟨u, hrun, hu, hwf', huup, hrp, hkeeps⟩ := State.popsTo_of_word hwf hfirst n
    have hmap : s.SameMap u := by rw [hu]; exact ⟨rfl, rfl⟩
    have hbank : u.psw.rbs = s.psw.rbs := by rw [hu]
    have hregs (a : Long) (ha : a ∈ ((s.footRg .uup).and (s.footRp n)).bytes) : ∃ r : RP, a ∈ (s.footRp r).bytes :=
      (List.mem_append.mp ha).elim (fun h => ⟨.rp5, h⟩) fun h => ⟨n, h⟩
    have hrest (i : Nat) (hi : i < ns.length) : u.peek16 (u.rg .uup + BitVec.ofNat 24 (2 * i)) = some (w (i + 1)) := by
      rw [huup, next_word]
      exact hapart.peek16 hlen (Nat.succ_lt_succ hi) hkeeps hregs (hwords (i + 1) (Nat.succ_lt_succ hi))
    obtain ⟨t, q, hrun', htuup, hitems, hpsw, ht, hkeeps'⟩ :=
      ih (w := fun i => w (i + 1)) (if n = .rp5 then some (w 0) else psw) hwf' (Nat.le_of_lt hlen') hnodup
        (huup ▸ hapart.next hlen' hmap hbank) hrest
    have hmap' : u.SameMap t := by rw [ht]; exact ⟨rfl, rfl⟩
    refine ⟨t, q, (hrun psw ns).trans hrun', ?_, fun i hi => ?_, fun hno => ?_, by rw [ht, hu], ?_⟩
    · rw [htuup, huup, List.length_cons, next_word]
    · cases i with
      | zero =>
        by_cases hn : n = .rp5
        · rw [if_pos hn] at hpsw
          exact (if_pos hn).mpr (hpsw (hn ▸ hnew))
        · have hothers (a : Long) (ha : a ∈ ((u.footRg .uup).and ⟨u.footList ns, []⟩).bytes) :
              ∃ r, n ≠ r ∧ a ∈ (u.footRp r).bytes :=
            (List.mem_append.mp ha).elim (fun h => ⟨.rp5, hn, h⟩) (State.footList_others hnew)
          exact (if_neg hn).mpr ((State.rp_of_keeps_others hmap' (by rw [ht]) hkeeps' hothers).trans (hrp hn))
      | succ i => exact hitems i (Nat.lt_of_succ_lt_succ hi)
    · rw [List.mem_cons, not_or] at hno
      rw [hpsw hno.2, if_neg (Ne.symm hno.1)]
    · rw [State.footRg_congr hmap hbank, State.footList_congr hmap hbank] at hkeeps'
      refine (hkeeps.trans hkeeps').mono (fun a ha => ?_) fun i hi => ?_
      · simp only [Footprint.and, List.mem_append] at ha ⊢
        rcases ha with (h | h) | h | h
        · exact .inl h
        · exact .inr (List.mem_append_left _ h)
        · exact .inl h
        · exact .inr (List.mem_append_right _ h)
      · simp only [Footprint.and, List.mem_append, List.not_mem_nil, or_false] at hi ⊢
        rcases hi with (h | h) | h
        · exact h
        · cases h
        · exact h

end Popu

theorem State.rg_uup_of_bank (t : State) {b : BitVec 3} (h : t.psw.rbs = b) :
    t.rg .uup = t.vutw[extIdx b .u] ++ t.rpOf b .rp5 := by
  subst h
  rfl

/-- Settles O43: the PSW is written after the last pair, in the bank the pairs were those of (D26). -/
theorem popuRestores : Obligations.PopuRestores := by
  intro s post w hinv ps u hapart hwords
  have hlen : ps.length ≤ 8 := selected_length_le restorePairs post
  obtain ⟨t, q, hrun, huup, hitems, hpsw, ht, hkeeps⟩ := popuAll_restores ps none hinv.wf hlen
    (selected_nodup (ps := restorePairs) (by decide) post)
    (State.apartAbove.mono (n := 8) hapart (Nat.le_refl 8) hlen) hwords
  have hkept : t.psw = s.psw := by rw [ht]
  have huup' : t.vutw[extIdx s.psw.rbs .u] ++ t.rpOf s.psw.rbs .rp5 = u + BitVec.ofNat 24 (2 * ps.length) := by
    rw [← t.rg_uup_of_bank (congrArg (·.rbs) hkept)]
    exact huup
  refine ⟨{ t with psw := q.elim s.psw s.psw.ofWord }, ?_, ?_, ?_, fun i hi => ?_, fun hno => ?_, ?_,
    hkeeps.trans_same (t.keeps_rest t.pc _ t.sp t.io t.draws _)⟩
  · show execPopu post s = _
    rw [execPopu, popuPairs_eq restorePairs (by decide)]
    refine (run_bind_ok _ hrun).trans ?_
    rw [← hkept]
    cases q <;> rfl
  · rw [← huup']
    exact BitVec.setWidth_append_eq_right.symm
  · rw [← huup']
    exact BitVec.extractLsb'_append_eq_left.symm
  · have hitem := hitems i hi
    split at hitem
    · rename_i h
      rw [if_pos h, hitem]
      rfl
    · rename_i h
      rw [if_neg h, ← hitem, State.rp, hkept]
      rfl
  · rw [hpsw hno]
    rfl
  · rw [ht]

end Sys2Proof.Machine
end

section
/-! MOVTBLW: the words of a table in the upper page of internal RAM move up by one word (O55; 53_chkl_string R782). -/

namespace Sys2Proof.Machine

section Table

variable {s : State} {k j n : Nat} {w : Word}

/-! ## Words of internal RAM by their address -/

theorem State.ramAddr_add (s : State) (k m : Nat) : s.ramAddr k + BitVec.ofNat 24 m = s.ramAddr (k + m) := by
  rw [State.ramAddr, State.ramAddr, ← Nat.add_assoc, BitVec.ofNat_add (s.locBase + k) m]

theorem State.ramAddr_sub_two (s : State) (k : Nat) : s.ramAddr (k + 2) - 2 = s.ramAddr k := by
  rw [← s.ramAddr_add k 2]
  exact BitVec.add_sub_cancel _ _

theorem State.plain_ramAddr (hlo : 0xFD00 ≤ k) (hhi : k < 0xFF00) : s.plain (s.ramAddr k) = true := by
  rw [State.plain, State.place_ramAddr hlo hhi]
  rfl

theorem State.store16_ramAddr (w : Word) (hlo : 0xFD00 ≤ k) (hhi : k + 1 < 0xFF00) :
    s.store16 (s.ramAddr k) w = s.setRam16 k w := by
  have hbase := s.ramBase_le
  rw [State.store16_of_plain w (State.plain_ramAddr hlo (by omega)), State.store_ramAddr _ (by omega) (by omega),
    show s.ramAddr k + 1 = s.ramAddr (k + 1) from s.ramAddr_add k 1]
  exact State.store_ramAddr (s := s.setRam8 k _) _ (Nat.le_trans hbase (by omega)) hhi

theorem writeMem16_ramAddr (w : Word) (hlo : 0xFD00 ≤ k) (hhi : k + 1 < 0xFF00) :
    writeMem16 (s.ramAddr k) w s = .ok ((), s.setRam16 k w) := by
  have hplain : s.plainN (s.ramAddr k) 2 = true := by
    rw [State.plainN_two, show s.ramAddr k + 1 = s.ramAddr (k + 1) from s.ramAddr_add k 1]
    exact ⟨State.plain_ramAddr hlo (by omega), State.plain_ramAddr (by omega) hhi⟩
  rw [writeMem16_of w (State.writableN_of_plain hplain), State.store16_ramAddr w hlo hhi]

/-! ## The move within the page -/

/-- `n` words, the first at `k`, each moved up by two bytes. -/
def State.tableMoved (s : State) (n k : Nat) : State :=
  match n with
  | 0 => s
  | n + 1 => (s.setRam16 (k + 2) (s.ram16 k)).tableMoved n (k - 2)

theorem tableLoop_ramAddr (hlo : 0xFE00 + 2 * n ≤ k + 2) (hhi : k + 3 < 0xFF00) :
    tableLoop n (s.ramAddr k) s = .ok ((), s.tableMoved n k) := by
  induction n generalizing s k with
  | zero => rfl
  | succ n ih =>
    obtain ⟨j, rfl⟩ : ∃ j, k = j + 2 := ⟨k - 2, by omega⟩
    have hread := readMem16_ramAddr (s := s) (k := j + 2) (by omega) (by omega)
    have hwrite : writeMem16 (s.ramAddr (j + 2) + 2) (s.ram16 (j + 2)) s =
        .ok ((), s.setRam16 (j + 2 + 2) (s.ram16 (j + 2))) := by
      rw [show s.ramAddr (j + 2) + 2 = s.ramAddr (j + 2 + 2) from s.ramAddr_add (j + 2) 2]
      exact writeMem16_ramAddr _ (by omega) (by omega)
    rw [tableLoop, bind_of _ hread]
    refine (bind_of _ hwrite).trans ?_
    rw [State.ramAddr_sub_two]
    exact ih (s := s.setRam16 (j + 2 + 2) (s.ram16 (j + 2))) (by omega) (by omega)

theorem State.tableMoved_parts (s : State) (n k : Nat) : ∃ r, s.tableMoved n k = { s with ram := r } := by
  induction n generalizing s k with
  | zero => exact ⟨s.ram, rfl⟩
  | succ n ih =>
    obtain ⟨r, h⟩ := ih (s.setRam16 (k + 2) (s.ram16 k)) (k - 2)
    exact ⟨r, h⟩

/-- A byte of the run holds what stood two below it; the others stay. -/
theorem State.ram8_tableMoved (hwf : s.ram.wf = true) (h : 2 * n ≤ k + 2) (j : Nat) :
    (s.tableMoved n k).ram8 j = if k + 4 ≤ j + 2 * n ∧ j < k + 4 then s.ram8 (j - 2) else s.ram8 j := by
  induction n generalizing s k with
  | zero => rw [if_neg (by omega)]; rfl
  | succ n ih =>
    have hbyte (i : Nat) : (s.setRam16 (k + 2) (s.ram16 k)).ram8 i =
        if i = k + 2 ∨ i = k + 3 then s.ram8 (i - 2) else s.ram8 i := by
      obtain ⟨hlow, hhigh⟩ := word_parts (s.ram8 (k + 1)) (s.ram8 k)
      by_cases h2 : i = k + 2
      · rw [if_pos (.inl h2), h2, State.ram8_setRam16_low _ hwf]
        exact hlow
      by_cases h3 : i = k + 3
      · rw [if_pos (.inr h3), h3]
        exact (State.ram8_setRam16_high _ hwf).trans hhigh
      rw [if_neg (by omega), State.ram8_setRam16_other _ h2 h3]
    have hwf' : (s.setRam16 (k + 2) (s.ram16 k)).ram.wf = true := State.setRam8_wf _ _ (State.setRam8_wf _ _ hwf)
    rw [State.tableMoved]
    by_cases hn : n = 0
    · subst hn
      rw [State.tableMoved, hbyte]
      by_cases hj : j = k + 2 ∨ j = k + 3
      · rw [if_pos hj, if_pos (by omega)]
      · rw [if_neg hj, if_neg (by omega)]
    rw [ih hwf' (by omega), hbyte, hbyte]
    by_cases hbelow : k - 2 + 4 ≤ j + 2 * n ∧ j < k - 2 + 4
    · rw [if_pos hbelow, if_neg (by omega), if_pos (by omega)]
    rw [if_neg hbelow]
    by_cases hj : j = k + 2 ∨ j = k + 3
    · rw [if_pos hj, if_pos (by omega)]
    · rw [if_neg hj, if_neg (by omega)]

theorem mem_ramAddr_run {j m : Nat} (hm : m ≤ 0x10000) (hlo : k ≤ j) (hhi : j < k + m) (hj : j < 0x10000) :
    s.ramAddr j ∈ bytesAt (s.ramAddr k) m := by
  rw [mem_bytesAt (by omega)]
  have hj := State.ramAddr_toNat (s := s) hj
  have hk := State.ramAddr_toNat (s := s) (k := k) (by omega)
  rw [BitVec.toNat_sub]
  omega

theorem State.keeps_tableMoved (hlo : 0xFE00 + 2 * n ≤ k + 2) (hhi : k + 3 < 0xFF02) :
    s.keeps (s.tableMoved n k) ⟨bytesAt (s.ramAddr (k + 4 - 2 * n)) (2 * n), []⟩ := by
  induction n generalizing s k with
  | zero => exact s.keeps_refl _
  | succ n ih =>
    have hrest := ih (s := s.setRam16 (k + 2) (s.ram16 k)) (k := k - 2)  (by omega) (by omega)
    refine ((s.keeps_setRam16 (s.ram16 k) (k := k + 2) (by omega)).trans hrest).mono (fun a ha => ?_) fun i hi => hi
    simp only [Footprint.and, List.mem_append, List.mem_cons, List.not_mem_nil, or_false] at ha
    rcases ha with (rfl | rfl) | ha
    · exact mem_ramAddr_run (by omega) (by omega) (by omega) (by omega)
    · exact mem_ramAddr_run (by omega) (by omega) (by omega) (by omega)
    · rw [show k - 2 + 4 - 2 * n = k + 4 - 2 * (n + 1) by omega] at ha
      have hrun : a ∈ bytesAt (s.ramAddr (k + 4 - 2 * (n + 1))) (2 * n) := ha
      rw [mem_bytesAt (by omega)] at hrun ⊢
      omega

/-! ## A run that begins with the last word of the page -/

/-- The first word of a run from FDH: its low byte to the last byte of the page, its high byte to SFR 00H. -/
def State.wordAcross (s : State) : State := (s.setRam8 0xFEFF (s.ram8 0xFEFD)).storeAt (.sfr 0x00#8) (s.ram8 0xFEFE)

theorem State.place_sfr0 (s : State) : s.place (s.ramAddr 0xFF00) = .sfr 0x00#8 := by
  have haddr := State.ramAddr_toNat (s := s) (k := 0xFF00) (by omega)
  rw [State.place, placeIn, haddr, if_pos (by omega)]
  rcases s.locBase_cases with h | h <;> rw [h] <;> rfl

theorem State.store16_across (s : State) : s.store16 (s.ramAddr 0xFEFF) (s.ram16 0xFEFD) = s.wordAcross := by
  obtain ⟨hlow, hhigh⟩ := word_parts (s.ram8 (0xFEFD + 1)) (s.ram8 0xFEFD)
  have hbase := s.ramBase_le
  rw [State.store16_of_plain _ (State.plain_ramAddr (by omega) (by omega)), State.ram16, hlow, hhigh,
    State.store_ramAddr _ (by omega) (by omega),
    show s.ramAddr 0xFEFF + 1 = s.ramAddr 0xFF00 from s.ramAddr_add 0xFEFF 1,
    State.store, show (s.setRam8 0xFEFF (s.ram8 0xFEFD)).place (s.ramAddr 0xFF00) = .sfr 0x00#8 from s.place_sfr0]
  rfl

theorem State.writableN_across (s : State) :
    s.writableN (s.ramAddr 0xFEFF) 2 = (s.sfrGuarded 0x00#8 || s.sfrMapped 0x00#8) := by
  have hlow : s.writable (s.ramAddr 0xFEFF) = true := State.writable_of_plain (State.plain_ramAddr (by omega) (by omega))
  have hhigh : s.writable (s.ramAddr (0xFEFF + 1)) = (s.sfrGuarded 0x00#8 || s.sfrMapped 0x00#8) := by
    rw [State.writable, s.place_sfr0]
    rfl
  simp only [State.writableN, List.range_succ, List.range_zero, List.nil_append, List.cons_append, List.all_cons,
    List.all_nil, Bool.and_true, State.ramAddr_add, Nat.add_zero, hlow, hhigh, Bool.true_and]

theorem State.writeMem16_across (h : (s.sfrGuarded 0x00#8 || s.sfrMapped 0x00#8) = true) :
    writeMem16 (s.ramAddr 0xFEFF) (s.ram16 0xFEFD) s = .ok ((), s.wordAcross) := by
  rw [writeMem16_of _ (s.writableN_across.trans h), s.store16_across]

theorem State.wordAcross_parts (s : State) :
    ∃ i, s.wordAcross = { s with ram := (s.setRam8 0xFEFF (s.ram8 0xFEFD)).ram, io := i } := by
  unfold State.wordAcross State.storeAt
  dsimp only
  split <;> exact ⟨_, rfl⟩

theorem tableLoop_across (h : (s.sfrGuarded 0x00#8 || s.sfrMapped 0x00#8) = true) (hn : 2 * (n + 1) ≤ 0xFF) :
    tableLoop (n + 1) (s.ramAddr 0xFEFD) s = .ok ((), s.wordAcross.tableMoved n 0xFEFB) := by
  have hread := readMem16_ramAddr (s := s) (k := 0xFEFD) (by omega) (by omega)
  obtain ⟨i, hparts⟩ := s.wordAcross_parts
  have haddr : s.ramAddr 0xFEFB = s.wordAcross.ramAddr 0xFEFB := by rw [hparts]; rfl
  have hwrite : writeMem16 (s.ramAddr 0xFEFD + 2) (s.ram16 0xFEFD) s = .ok ((), s.wordAcross) := by
    rw [show s.ramAddr 0xFEFD + 2 = s.ramAddr 0xFEFF from s.ramAddr_add 0xFEFD 2]
    exact State.writeMem16_across h
  rw [tableLoop, bind_of _ hread]
  refine (bind_of _ hwrite).trans ?_
  rw [show s.ramAddr 0xFEFD - 2 = s.ramAddr 0xFEFB from s.ramAddr_sub_two 0xFEFB, haddr]
  exact tableLoop_ramAddr (by omega) (by omega)

theorem bind_of_fault {α β : Type} {m : Act α} (f : α → Act β) {e : Stop} (h : m s = .error e) :
    (m >>= f) s = .error e := by
  rw [bind_apply, h]

theorem writeMem16_deadlock {a : Long} (w : Word) (h : s.writableN a 2 = false) :
    writeMem16 a w s = .error (.fault .deadlock) := guardedSet_deadlock (fun s => s.store16 a w) h

theorem tableLoop_across_deadlock (hguard : s.sfrGuarded 0x00#8 = false) (hmap : s.sfrMapped 0x00#8 = false) :
    tableLoop (n + 1) (s.ramAddr 0xFEFD) s = .error (.fault .deadlock) := by
  have hread := readMem16_ramAddr (s := s) (k := 0xFEFD) (by omega) (by omega)
  have hwrite : writeMem16 (s.ramAddr 0xFEFD + 2) (s.ram16 0xFEFD) s = .error (.fault .deadlock) := by
    rw [show s.ramAddr 0xFEFD + 2 = s.ramAddr 0xFEFF from s.ramAddr_add 0xFEFD 2]
    exact writeMem16_deadlock _ (by rw [s.writableN_across, hguard, hmap]; rfl)
  rw [tableLoop, bind_of _ hread]
  exact bind_of_fault _ hwrite

theorem State.ram8_wordAcross (hwf : s.ram.wf = true) (j : Nat) :
    s.wordAcross.ram8 j = if j = 0xFEFF then s.ram8 0xFEFD else s.ram8 j := by
  obtain ⟨i, hparts⟩ := s.wordAcross_parts
  rw [hparts]
  exact State.ram8_setRam8 _ j _ hwf

theorem State.wordAcross_wf (hwf : s.ram.wf = true) : s.wordAcross.ram.wf = true := by
  obtain ⟨i, hparts⟩ := s.wordAcross_parts
  rw [hparts]
  exact State.setRam8_wf _ _ hwf

theorem State.keeps_wordAcross (s : State) : s.keeps s.wordAcross ⟨[s.ramAddr 0xFEFF], []⟩ := by
  obtain ⟨i, hparts⟩ := s.wordAcross_parts
  rw [hparts]
  exact (s.keeps_setRam8 (k := 0xFEFF) (s.ram8 0xFEFD) (by omega)).trans_same
    (State.keeps_rest (s.setRam8 0xFEFF (s.ram8 0xFEFD)) s.pc s.psw s.sp i s.draws _)

/-- The whole run from FDH. -/
theorem State.ram8_movedAcross (hwf : s.ram.wf = true) (hn : 2 * n ≤ 0xFEFD) {j : Nat} (hlo : 0xFEFF ≤ j + 2 * n)
    (hhi : j < 0xFF00) : (s.wordAcross.tableMoved n 0xFEFB).ram8 j = s.ram8 (j - 2) := by
  rw [State.ram8_tableMoved (State.wordAcross_wf hwf) (by omega), State.ram8_wordAcross hwf, State.ram8_wordAcross hwf]
  by_cases hj : j = 0xFEFF
  · rw [if_neg (by omega), if_pos hj, hj]
  · rw [if_pos (by omega), if_neg (by omega)]

theorem State.keeps_movedAcross (hn : 2 * (n + 1) ≤ 0xFF) :
    s.keeps (s.wordAcross.tableMoved n 0xFEFB) ⟨bytesAt (s.ramAddr (0xFF01 - 2 * (n + 1))) (2 * (n + 1)), []⟩ := by
  obtain ⟨i, hparts⟩ := s.wordAcross_parts
  have haddr (k : Nat) : s.wordAcross.ramAddr k = s.ramAddr k := by rw [hparts]; rfl
  have hrest := State.keeps_tableMoved (s := s.wordAcross) (n := n) (k := 0xFEFB) (by omega) (by omega)
  rw [haddr] at hrest
  refine (s.keeps_wordAcross.trans hrest).mono (fun a ha => ?_) fun i hi => hi
  simp only [Footprint.and, List.mem_append, List.mem_singleton] at ha
  rcases ha with rfl | ha
  · exact mem_ramAddr_run (by omega) (by omega) (by omega) (by omega)
  · rw [show 0xFEFB + 4 - 2 * n = 0xFF01 - 2 * (n + 1) by omega, mem_bytesAt (by omega)] at ha
    rw [mem_bytesAt (by omega)]
    omega

theorem exec_movtblw {lo c : Byte} (h : ¬(0xFE ≤ lo.toNat ∨ lo.toNat + 2 < 2 * passes c)) :
    exec (.movtblw lo c) s = run (tableLoop (passes c) (s.ramAddr (0xFE00 + lo.toNat))) s := by
  show execMovtblw lo c s = _
  rw [execMovtblw, run_bind_get, if_neg h, State.ramAddr, ← Nat.add_assoc]

theorem State.movedAcross_of_guarded (h : s.sfrGuarded 0x00#8 = true) (n : Nat) :
    ∃ r, s.wordAcross.tableMoved n k = { s with ram := r } := by
  have hword : s.wordAcross = s.setRam8 0xFEFF (s.ram8 0xFEFD) := if_pos h
  rw [hword]
  exact State.tableMoved_parts _ n k

theorem State.movedAcross_of_not_guarded (h : s.sfrGuarded 0x00#8 = false) (n : Nat) :
    ∃ r, s.wordAcross.tableMoved n k =
      { s with ram := r, io := .sfrWrite 0x00#8 1 ((s.ram8 0xFEFE).setWidth 24) :: s.io } := by
  have hword : s.wordAcross = (s.setRam8 0xFEFF (s.ram8 0xFEFD)).sfrOut 0x00#8 1 ((s.ram8 0xFEFE).setWidth 24) :=
    if_neg fun hguard => Bool.false_ne_true (h.symm.trans hguard)
  rw [hword]
  exact State.tableMoved_parts _ n k

end Table

/-- Settles O55: within the page by induction on the words; from FDH the first word goes across the end of the page and
the rest is a run within it. -/
theorem tableMove : Obligations.TableMove := by
  intro s lo c hinv n moved
  refine ⟨fun hleaves => ?_, fun hlo hn => ?_, fun hlo hn => ?_⟩
  · show execMovtblw lo c s = _
    have hrefused : 0xFE ≤ lo.toNat ∨ lo.toNat + 2 < 2 * passes c := hleaves
    rw [execMovtblw, run_bind_get, if_pos hrefused]
    rfl
  · have hfits : 2 * passes c ≤ lo.toNat + 2 := hn
    obtain ⟨r, hparts⟩ := s.tableMoved_parts (passes c) (0xFE00 + lo.toNat)
    refine ⟨s.tableMoved (passes c) (0xFE00 + lo.toNat), ?_, by rw [hparts], fun j hj _ => ?_,
      State.keeps_tableMoved (by omega) (by omega)⟩
    · rw [exec_movtblw (by omega)]
      exact run_of_ok (tableLoop_ramAddr (by omega) (by omega))
    · have hj' : j < 2 * passes c := hj
      rw [State.ram8_tableMoved hinv.ramForm (by omega), if_pos (by omega)]
      exact congrArg s.ram8 (by omega)
  · subst hlo
    have hfits : 2 * passes c ≤ 0xFF := hn
    obtain ⟨m, hm⟩ : ∃ m, passes c = m + 1 := ⟨passes c - 1, by have := passes_pos c; omega⟩
    have hexec : exec (.movtblw 0xFD#8 c) s = run (tableLoop (m + 1) (s.ramAddr 0xFEFD)) s := by
      rw [← hm]
      exact exec_movtblw (lo := 0xFD#8) (not_or.mpr ⟨by decide, Nat.not_lt.mpr hfits⟩)
    have hrun (h : (s.sfrGuarded 0x00#8 || s.sfrMapped 0x00#8) = true) :
        exec (.movtblw 0xFD#8 c) s = .next (s.wordAcross.tableMoved m 0xFEFB) := by
      rw [hexec]
      exact run_of_ok (tableLoop_across h (hm ▸ hfits))
    have hmoved : moved (s.wordAcross.tableMoved m 0xFEFB) := by
      have hlen : n = m + 1 := hm
      refine ⟨fun j hj hpage => ?_, hlen ▸ State.keeps_movedAcross (hm ▸ hfits)⟩
      have hbyte : 0xFE00 + (0xFD#8).toNat + 3 - j < 0xFF00 := hpage
      rw [show (0xFD#8 : Byte).toNat = 0xFD from rfl] at hbyte ⊢
      rw [State.ram8_movedAcross hinv.ramForm (by omega) (by omega) hbyte]
      exact congrArg s.ram8 (by omega)
    refine ⟨fun hguard => ⟨_, hrun (by rw [hguard]; rfl), ?_, hmoved⟩,
      fun hguard hmap => ⟨_, hrun (by rw [hmap, Bool.or_true]), hmoved, ?_⟩, fun hguard hmap => ?_⟩
    · obtain ⟨r, hparts⟩ := State.movedAcross_of_guarded (k := 0xFEFB) hguard m
      rw [hparts]
    · obtain ⟨r, hparts⟩ := State.movedAcross_of_not_guarded (k := 0xFEFB) hguard m
      rw [hparts]
    · rw [hexec, run, tableLoop_across_deadlock hguard hmap]

end Sys2Proof.Machine
end

section
/-! The fields of an instruction's bytes (O1, O2; 30_encoding R171 to R179): what the decoder's accessors answer on the
bytes the encoder makes. -/

namespace Sys2Proof

/-! ## Case splits of small fields -/

theorem belowTwo {motive : (k : Nat) → k < 2 → Prop}
    (zero : motive 0 (by decide)) (one : motive 1 (by decide)) (k : Nat) (hk : k < 2) : motive k hk :=
  match k, hk with
  | 0, _ => zero
  | 1, _ => one
  | _ + 2, h => absurd h (by omega)

theorem belowThree {motive : (k : Nat) → k < 3 → Prop}
    (zero : motive 0 (by decide)) (one : motive 1 (by decide)) (two : motive 2 (by decide))
    (k : Nat) (hk : k < 3) : motive k hk :=
  match k, hk with
  | 0, _ => zero
  | 1, _ => one
  | 2, _ => two
  | _ + 3, h => absurd h (by omega)

theorem belowFour {motive : (k : Nat) → k < 4 → Prop}
    (zero : motive 0 (by decide)) (one : motive 1 (by decide)) (two : motive 2 (by decide))
    (three : motive 3 (by decide)) (k : Nat) (hk : k < 4) : motive k hk :=
  match k, hk with
  | 0, _ => zero
  | 1, _ => one
  | 2, _ => two
  | 3, _ => three
  | _ + 4, h => absurd h (by omega)

theorem belowEight {motive : (k : Nat) → k < 8 → Prop}
    (zero : motive 0 (by decide)) (one : motive 1 (by decide)) (two : motive 2 (by decide))
    (three : motive 3 (by decide)) (four : motive 4 (by decide)) (five : motive 5 (by decide))
    (six : motive 6 (by decide)) (seven : motive 7 (by decide)) (k : Nat) (hk : k < 8) : motive k hk :=
  match k, hk with
  | 0, _ => zero
  | 1, _ => one
  | 2, _ => two
  | 3, _ => three
  | 4, _ => four
  | 5, _ => five
  | 6, _ => six
  | 7, _ => seven
  | _ + 8, h => absurd h (by omega)

theorem belowSixteen {motive : (k : Nat) → k < 16 → Prop}
    (zero : motive 0 (by decide)) (one : motive 1 (by decide)) (two : motive 2 (by decide))
    (three : motive 3 (by decide)) (four : motive 4 (by decide)) (five : motive 5 (by decide))
    (six : motive 6 (by decide)) (seven : motive 7 (by decide)) (eight : motive 8 (by decide))
    (nine : motive 9 (by decide)) (ten : motive 10 (by decide)) (eleven : motive 11 (by decide))
    (twelve : motive 12 (by decide)) (thirteen : motive 13 (by decide)) (fourteen : motive 14 (by decide))
    (fifteen : motive 15 (by decide)) (k : Nat) (hk : k < 16) : motive k hk :=
  match k, hk with
  | 0, _ => zero
  | 1, _ => one
  | 2, _ => two
  | 3, _ => three
  | 4, _ => four
  | 5, _ => five
  | 6, _ => six
  | 7, _ => seven
  | 8, _ => eight
  | 9, _ => nine
  | 10, _ => ten
  | 11, _ => eleven
  | 12, _ => twelve
  | 13, _ => thirteen
  | 14, _ => fourteen
  | 15, _ => fifteen
  | _ + 16, h => absurd h (by omega)

/-! ## The byte 3CH (R171) -/

/-- The byte before the r2 and saddr1 forms. -/
def pre3C (p : Bool) : List Byte := if p then [0x3C#8] else []

theorem R8.pre_eq (n : R8) : n.pre = pre3C (decide (8 ≤ n.num)) := by cases n <;> rfl

theorem Saddr.exists_saddrOf (x : Saddr) : ∃ p, saddrOf p x.off = x ∧ x.pre = pre3C p := by
  cases x with
  | s1 o => exact ⟨true, rfl, rfl⟩
  | s2 o => exact ⟨false, rfl, rfl⟩

theorem decodeRows_pre3C (p : Bool) {b : Byte} (hb : b ≠ 0x3C#8) (bs : List Byte) :
    decodeRows (pre3C p ++ b :: bs) = decodeOp p b.toNat bs := by
  cases p
  case false => exact if_neg hb
  case true => exact if_neg hb

/-! ## Bytes of two fields -/

theorem nib_toNat {h l : Nat} (hh : h < 16) (hl : l < 16) : (nib h l).toNat = 16 * h + l :=
  Nat.mod_eq_of_lt (by omega)

theorem nib_div {h l : Nat} (hh : h < 16) (hl : l < 16) : (nib h l).toNat / 16 = h := by
  rw [nib_toNat hh hl]; omega

theorem nib_mod {h l : Nat} (hh : h < 16) (hl : l < 16) : (nib h l).toNat % 16 = l := by
  rw [nib_toNat hh hl]; omega

/-- Only 3CH has the nibbles 3 and C. -/
theorem nib_ne_3C {h l : Nat} (hh : h < 16) (hl : l < 16) (h3 : h ≠ 3) : nib h l ≠ 0x3C#8 := by
  intro heq
  have hdiv := nib_div hh hl
  rw [heq] at hdiv
  exact h3 hdiv.symm

theorem byteOf_toNat {n : Nat} (h : n < 256) : (byteOf n).toNat = n := Nat.mod_eq_of_lt h

theorem byteOf_toNat_self (b : Byte) : byteOf b.toNat = b := by
  rw [byteOf, BitVec.ofNat_toNat, BitVec.setWidth_eq]

theorem bitNum_eq {n : Nat} {b : Fin 8} (h : n % 8 = b.val) : bitNum n = b := Fin.ext h

theorem R8.ofNum_num (n : R8) : R8.ofNum n.num = n := by cases n <;> rfl

theorem RP.ofPpp_ppp (n : RP) : RP.ofPpp n.ppp = n := by cases n <;> rfl

theorem RP.ppp_lt (n : RP) : n.ppp < 8 := by cases n <;> decide

/-- The r field of a byte and the byte 3CH name the register (R172). -/
theorem regOf_eq {n : R8} {m : Nat} (h : m % 8 = n.num % 8) : regOf (decide (8 ≤ n.num)) m = n := by
  rw [regOf, h]
  cases n <;> rfl

/-! ## Short direct operands -/

theorem Saddr.cls_lt (x : Saddr) : x.cls < 3 := by cases x <;> exact of_decide_eq_true rfl

theorem ccOp8_cls (x : Saddr) : ccOp8 x.cls x.off = .saddr x := by cases x <;> rfl

theorem ccOp16_cls (x : Saddr) : ccOp16 x.cls x.off = .saddr x := by cases x <;> rfl

theorem Saddr.exists_of_isS2 {x : Saddr} (h : x.isS2 = true) : ∃ o, x = .s2 o := by
  cases x with
  | s1 o => exact absurd h Bool.false_ne_true
  | s2 o => exact ⟨o, rfl⟩

theorem movSfr_eq {o : Byte} (h : sfrNotPsw o = true) : movSfr o = .sfr o := by
  rw [sfrNotPsw, Bool.and_eq_true, bne_iff_ne, bne_iff_ne] at h
  rw [movSfr, if_neg h.1, if_neg h.2]

/-! ## 16- and 24-bit operands (R176, R177) -/

theorem Word.append_bytes (w : Word) : w.extractLsb' 8 8 ++ w.extractLsb' 0 8 = w :=
  (BitVec.extractLsb'_append_extractLsb'_eq_extractLsb' (start₁ := 0) rfl).trans BitVec.extractLsb'_eq_self

theorem Long.append_bytes (l : Long) : l.extractLsb' 16 8 ++ l.extractLsb' 8 8 ++ l.extractLsb' 0 8 = l := by
  rw [BitVec.extractLsb'_append_extractLsb'_eq_extractLsb' (start₁ := 8) (len₁ := 8) rfl]
  exact (BitVec.extractLsb'_append_extractLsb'_eq_extractLsb' (start₁ := 0) rfl).trans BitVec.extractLsb'_eq_self

theorem le16_append (hi lo : Byte) : le16 (hi ++ lo) = [lo, hi] := by
  rw [le16, BitVec.extractLsb'_append_eq_left, BitVec.extractLsb'_append_eq_right]

theorem Long.bytes_append (hw hi lo : Byte) : (hw ++ hi ++ lo).extractLsb' 0 8 = lo ∧
    (hw ++ hi ++ lo).extractLsb' 8 8 = hi ∧ (hw ++ hi ++ lo).extractLsb' 16 8 = hw := by
  refine ⟨BitVec.extractLsb'_append_eq_right, ?_, ?_⟩
  all_goals rw [BitVec.extractLsb'_append_eq_of_le (by decide)]
  · exact BitVec.extractLsb'_append_eq_right
  · exact BitVec.extractLsb'_append_eq_left

theorem le24_append (hw hi lo : Byte) : le24 (hw ++ hi ++ lo) = [lo, hi, hw] := by
  obtain ⟨hlo, hmid, hhigh⟩ := Long.bytes_append hw hi lo
  rw [le24, hlo, hmid, hhigh]

theorem hw24_append (hw hi lo : Byte) : hw24 (hw ++ hi ++ lo) = [hw, lo, hi] := by
  obtain ⟨hlo, hmid, hhigh⟩ := Long.bytes_append hw hi lo
  rw [hw24, hlo, hmid, hhigh]

theorem need2_le16 (w : Word) (bs : List Byte) (k : Word → List Byte → Dec) :
    need2 (le16 w ++ bs) k = k w bs := congrArg (k · bs) w.append_bytes

theorem need3_le24 (l : Long) (bs : List Byte) (k : Long → List Byte → Dec) :
    need3 (le24 l ++ bs) k = k l bs := congrArg (k · bs) l.append_bytes

theorem need3w_hw24 (l : Long) (bs : List Byte) (k : Long → List Byte → Dec) :
    need3w (hw24 l ++ bs) k = k l bs := congrArg (k · bs) l.append_bytes

/-- What decodes with the two bytes of a word decodes with the word. -/
theorem decodes_word {d : Dec} {rest : List Byte} {f : Word → Instr} (w : Word)
    (h : d = .ok (f (w.extractLsb' 8 8 ++ w.extractLsb' 0 8)) rest) : d = .ok (f w) rest := by
  rwa [w.append_bytes] at h

/-- What decodes with the three bytes of a 24-bit value decodes with the value. -/
theorem decodes_long {d : Dec} {rest : List Byte} {f : Long → Instr} (l : Long)
    (h : d = .ok (f (l.extractLsb' 16 8 ++ l.extractLsb' 8 8 ++ l.extractLsb' 0 8)) rest) :
    d = .ok (f l) rest := by
  rwa [l.append_bytes] at h

/-! ## The mode byte (R175) -/

/-- The bit d, the mode field, the operation nibble. -/
theorem mode_fields (st : Bool) {m op : Nat} (hm : m < 8) (hop : op < 16) :
    decide (128 ≤ (nib ((if st then 8 else 0) + m) op).toNat) = st ∧
    (nib ((if st then 8 else 0) + m) op).toNat / 16 % 8 = m ∧
    (nib ((if st then 8 else 0) + m) op).toNat % 16 = op := by
  rw [nib_toNat (by split <;> omega) hop]
  cases st
  all_goals
    simp only [Bool.false_eq_true, if_false, if_true, decide_eq_true_eq, decide_eq_false_iff_not]
    omega

/-- Whether an operation nibble is one does not depend on the operands. -/
theorem accOp_isSome (st : Bool) (op : Nat) (m8 n8 : Op8) (m16 n16 : Op16) (m24 n24 : Op24) :
    (accOp st op m8 m16 m24).isSome = (accOp st op n8 n16 n24).isSome := by
  unfold accOp
  split <;> split <;> simp_all

theorem accOp_eq_some_of {st : Bool} {op : Nat} {m8 n8 : Op8} {m16 n16 : Op16} {m24 n24 : Op24} {i : Instr}
    (h : accOp st op m8 m16 m24 = some i) : ∃ j, accOp st op n8 n16 n24 = some j :=
  Option.isSome_iff_exists.mp ((accOp_isSome ..).trans (Option.isSome_of_eq_some h))

/-- MOV has its own rows for six of the eight register indirect modes, and MOVG does not take [WHL+] and [WHL-]
(R185). -/
def Mem.takes (op : Nat) : Mem → Prop
  | .rind r => ¬ (op = 0 ∧ r.num < 6) ∧ ¬ (op = 2 ∧ (r.num = 1 ∨ r.num = 3))
  | _ => True

theorem Mem.takes_of_ne {op : Nat} (m : Mem) (h0 : op ≠ 0) (h2 : op ≠ 2) : m.takes op := by
  cases m with
  | rind r => exact ⟨fun h => h0 h.1, fun h => h2 h.1⟩
  | _ => trivial

theorem Mem.takes_of_isMem1 {m : Mem} (h : m.isMem1 = true) : m.takes 2 := by
  cases m with
  | rind r => cases r <;> simp [isMem1, takes, RInd.num] at h ⊢
  | _ => trivial

end Sys2Proof
end

section
/-! What the encoder writes decodes (O1, and O3 for words of the spec; 30_encoding R170 to R194), by the families of
instructions: the bytes lead the decoder through its tables to one row, and the row's fields are the operands. -/

namespace Sys2Proof

/-! ## Rows of a register field and operand bytes -/

/-- A row `r, r1`: r in the high nibble, r1 in the low three bits and the byte 3CH. -/
theorem decodeRows_regPair {b1 : Byte} {f : R8 → R8 → Instr} (hb : b1 ≠ 0x3C#8)
    (hrow : ∀ p (b : Byte) bs, b.toNat / 8 % 2 = 0 →
      decodeOp p b1.toNat (b :: bs) = .ok (f (R8.ofNum (b.toNat / 16)) (regOf p b.toNat)) bs)
    (n m : R8) (rest : List Byte) :
    decodeRows (m.pre ++ [b1, nib n.num (m.num % 8)] ++ rest) = .ok (f n m) rest := by
  have hbyte := nib_toNat (Machine.R8.num_lt n) (l := m.num % 8) (by omega)
  have hr : (nib n.num (m.num % 8)).toNat / 16 = n.num := by omega
  rw [R8.pre_eq, List.append_assoc]
  refine (decodeRows_pre3C _ hb _).trans ((hrow _ _ rest (by omega)).trans ?_)
  rw [hr, R8.ofNum_num, regOf_eq (by omega)]

section

variable {c : Nat} (hc : c < 3) (off : Byte) (bs : List Byte)
include hc

theorem dec38_r (n : R8) : dec38 (nib n.num c).toNat (off :: bs) = .ok (.mov (.r n) (ccOp8 c off)) bs := by
  cases c, hc using belowThree <;> cases n <;> rfl

theorem dec38_r_store (n : R8) :
    dec38 (nib n.num (4 + c)).toNat (off :: bs) = .ok (.mov (ccOp8 c off) (.r n)) bs := by
  cases c, hc using belowThree <;> cases n <;> rfl

theorem dec38_rp (n : RP) : dec38 (ppp01 n c).toNat (off :: bs) = .ok (.movw (.rp n) (ccOp16 c off)) bs := by
  cases c, hc using belowThree <;> cases n <;> rfl

theorem dec38_rp_store (n : RP) :
    dec38 (ppp01 n (4 + c)).toNat (off :: bs) = .ok (.movw (ccOp16 c off) (.rp n)) bs := by
  cases c, hc using belowThree <;> cases n <;> rfl

theorem dec39_r (n : R8) : dec39 (nib n.num c).toNat (off :: bs) = .ok (.xch (.r n) (ccOp8 c off)) bs := by
  cases c, hc using belowThree <;> cases n <;> rfl

theorem dec39_rp (n : RP) : dec39 (ppp01 n c).toNat (off :: bs) = .ok (.xchw (.rp n) (ccOp16 c off)) bs := by
  cases c, hc using belowThree <;> cases n <;> rfl

theorem dec78_r (k : Nat) (n : R8) :
    dec78 k (nib n.num c).toNat (off :: bs) = .ok (aluInstr k (.r n) (ccOp8 c off)) bs := by
  cases c, hc using belowThree <;> cases n <;> rfl

theorem dec78_r_store (k : Nat) (n : R8) :
    dec78 k (nib n.num (4 + c)).toNat (off :: bs) = .ok (aluInstr k (ccOp8 c off) (.r n)) bs := by
  cases c, hc using belowThree <;> cases n <;> rfl

theorem dec78_rp {k : Nat} (hk : k = 0 ∨ k = 2 ∨ k = 7) (n : RP) :
    dec78 k (ppp01 n c).toNat (off :: bs) = assigned (aluWord k (.rp n) (ccOp16 c off)) bs := by
  cases c, hc using belowThree <;> cases n <;> exact if_pos hk

theorem dec78_rp_store {k : Nat} (hk : k = 0 ∨ k = 2 ∨ k = 7) (n : RP) :
    dec78 k (ppp01 n (4 + c)).toNat (off :: bs) = assigned (aluWord k (ccOp16 c off) (.rp n)) bs := by
  cases c, hc using belowThree <;> cases n <;> exact if_pos hk

end

theorem dec78_r_imm (k : Nat) (n : R8) (b : Byte) (bs : List Byte) :
    dec78 k (nib n.num 3).toNat (b :: bs) = .ok (aluInstr k (.r n) (.imm b)) bs := by
  cases n <;> rfl

theorem dec78_rp_imm {k : Nat} (hk : k = 0 ∨ k = 2 ∨ k = 7) (n : RP) (w : Word) (bs : List Byte) :
    dec78 k (ppp01 n 3).toNat (le16 w ++ bs) = assigned (aluWord k (.rp n) (.imm w)) bs := by
  rw [← need2_le16 w bs fun w bs => assigned (aluWord k (.rp n) (.imm w)) bs]
  cases n <;> exact if_pos hk

/-! ## Rows of two short direct operands (R190, 40_mov R258) -/

/-- The mode byte of 2AH: the width, the two classes, the operation nibble. -/
theorem dec2A_fields {w op : Nat} (d s : Saddr) (hw : w = 0 ∨ w = 2) (hop : op < 16) :
    (nib (4 * w + 2 * d.cls + s.cls) op).toNat / 64 = w ∧
    saddr2 ((nib (4 * w + 2 * d.cls + s.cls) op).toNat / 16 % 4) s.off d.off = (d, s) ∧
    (nib (4 * w + 2 * d.cls + s.cls) op).toNat % 16 = op := by
  have hd : d.cls < 2 := by cases d <;> exact of_decide_eq_true rfl
  have hs : s.cls < 2 := by cases s <;> exact of_decide_eq_true rfl
  rw [nib_toNat (by omega) hop, show (16 * (4 * w + 2 * d.cls + s.cls) + op) / 16 % 4 = 2 * d.cls + s.cls by omega]
  refine ⟨by omega, ?_, by omega⟩
  cases d <;> cases s <;> simp [saddr2, Saddr.cls, Saddr.off]

theorem dec2A_byte {op : Nat} (d s : Saddr) (hop : op = 0 ∨ op = 4 ∨ 8 ≤ op ∧ op < 16) (rest : List Byte) :
    decodeRows (enc2A 0 op d s ++ rest) = .ok (if op = 0 then .mov (.saddr d) (.saddr s)
      else if op = 4 then .xch (.saddr d) (.saddr s) else aluInstr (op - 8) (.saddr d) (.saddr s)) rest := by
  obtain ⟨hw, hsaddr, hlow⟩ := dec2A_fields (w := 0) d s (.inl rfl) (op := op) (by omega)
  show dec2A (nib (4 * 0 + 2 * d.cls + s.cls) op).toNat (s.off :: d.off :: rest) = _
  unfold dec2A
  simp only [hw, hlow, hsaddr, need1_cons]
  exact if_pos (by omega)

theorem dec2A_word {op : Nat} (d s : Saddr) (hop : op = 0 ∨ op = 4 ∨ 13 ≤ op ∧ op < 16) (rest : List Byte) :
    decodeRows (enc2A 8 op d s ++ rest) = .ok (if op = 0 then .movw (.saddr d) (.saddr s)
      else if op = 4 then .xchw (.saddr d) (.saddr s) else if op = 13 then .addw (.saddr d) (.saddr s)
      else if op = 14 then .subw (.saddr d) (.saddr s) else .cmpw (.saddr d) (.saddr s)) rest := by
  obtain ⟨hw, hsaddr, hlow⟩ := dec2A_fields (w := 2) d s (.inr rfl) (op := op) (by omega)
  show dec2A (nib (4 * 2 + 2 * d.cls + s.cls) op).toNat (s.off :: d.off :: rest) = _
  unfold dec2A
  simp only [hw, hlow, hsaddr, need1_cons]
  exact if_pos (by omega)

/-! ## The memory operand (R175) and the indirect short direct operand (R186) -/

theorem decodeRows_encMem {st : Bool} {op : Nat} {m : Mem} {i : Instr} (hop : op < 16) (hm : m.takes op)
    (hi : accMem st op m = some i) (rest : List Byte) : decodeRows (encMem st op m ++ rest) = .ok i rest := by
  cases m with
  | rind r =>
    obtain ⟨hd, hmode, hlow⟩ := mode_fields st (m := r.num) (by cases r <;> decide) hop
    have hr : RInd.ofNum r.num = r := by cases r <;> rfl
    show decRInd _ rest = _
    rw [decRInd, hd, hmode, hlow, if_neg hm.1, if_neg hm.2, hr, hi, assigned]
  | based r off =>
    obtain ⟨hd, hmode, hlow⟩ := mode_fields st (m := r.num) (by cases r <;> decide) hop
    have hr : BasedReg.ofNum r.num = some r := by cases r <;> rfl
    obtain ⟨j, hj⟩ : ∃ j, accMem st op (.based r 0#8) = some j := accOp_eq_some_of hi
    show decBased _ (off :: rest) = _
    simp only [decBased, hd, hmode, hlow, hr, hj, need1_cons, hi, assigned]
  | indexed r base =>
    have hnum : r.num < 4 := by cases r <;> decide
    obtain ⟨hd, hmode, hlow⟩ := mode_fields st (m := r.num) (by omega) hop
    have hr : IdxReg.ofNum r.num = r := by cases r <;> rfl
    obtain ⟨j, hj⟩ : ∃ j, accMem st op (.indexed r 0#24) = some j := accOp_eq_some_of hi
    show decIndexed _ (le24 base ++ rest) = _
    simp only [decIndexed, hd, hmode, hlow, hr, if_pos hnum, hj, need3_le24, hi, assigned]
  | bidx x =>
    obtain ⟨hd, hmode, hlow⟩ := mode_fields st (m := x.num) (by cases x <;> decide) hop
    have hx : BIdx.ofNum x.num = x := by cases x <;> rfl
    show decBIdx _ rest = _
    rw [decBIdx, hd, hmode, hlow, hx, hi, assigned]

theorem decodeRows_encInd {st g : Bool} {op : Nat} {x : Saddr} {i : Instr} (hop : op < 16)
    (hg : g = false → ¬ (op = 0 ∨ op = 2 ∨ op = 4))
    (hi : accOp st op (if g then .indG x else .indP x) (if g then .indG x else .indP x) (.indG x) = some i)
    (rest : List Byte) : decodeRows (encInd st g op x ++ rest) = .ok i rest := by
  obtain ⟨p, hp, hpre⟩ := x.exists_saddrOf
  obtain ⟨j, hj⟩ : ∃ j, accOp st op .a .ax .sp = some j := accOp_eq_some_of hi
  obtain ⟨hd, -, hlow⟩ := mode_fields st (m := if g then 3 else 2) (by split <;> decide) hop
  have hhigh := nib_div (h := (if st then 8 else 0) + if g then 3 else 2) (by cases st <;> cases g <;> decide) hop
  rw [encInd, hpre, List.append_assoc]
  refine (decodeRows_pre3C p (by decide) _).trans ?_
  show dec07 p _ (x.off :: rest) = _
  simp only [dec07, hd, hlow, hhigh]
  cases g with
  | false => cases st <;> simp only [Bool.false_eq_true, if_false, if_true] at hi ⊢ <;>
      simp only [if_neg (hg rfl), hj, hp, need1_cons, hi, assigned]
  | true => cases st <;> simp only [Bool.false_eq_true, if_false, if_true] at hi ⊢ <;>
      simp only [hj, hp, need1_cons, hi, assigned]

/-- MOV with a register indirect operand: the one-byte rows 50H to 5FH, and 16H for [VVP] and [UUP] (40_mov R261). -/
theorem decodeRows_encMovRInd (r : RInd) (rest : List Byte) :
    decodeRows (encMovRInd false r ++ rest) = .ok (.mov .a (.mem (.rind r))) rest ∧
    decodeRows (encMovRInd true r ++ rest) = .ok (.mov (.mem (.rind r)) .a) rest := by
  cases r <;> exact ⟨rfl, rfl⟩

/-! ## MOV, MOVW, MOVG, XCH, XCHW -/

theorem decodeRows_encMov {d s : Op8} (h : movForm d s = true) (rest : List Byte) :
    decodeRows (encMov d s ++ rest) = .ok (.mov d s) rest := by
  cases d <;> cases s <;> try exact absurd h Bool.false_ne_true
  case r.imm n b => cases n <;> rfl
  case saddr.imm x b => cases x <;> rfl
  case sfr.imm o b => exact congrArg (fun d => Dec.ok (.mov d _) rest) (movSfr_eq h)
  case abs16.imm a b => apply decodes_word a; rfl
  case abs24.imm a b => apply decodes_long a; rfl
  case r.r n m =>
    exact decodeRows_regPair (b1 := 0x24#8) (f := fun n m => .mov (.r n) (.r m)) (by decide) (fun _ _ _ h => if_pos h)
      n m rest
  case a.r n => cases n <;> rfl
  case a.saddr x =>
    obtain ⟨o, rfl⟩ := Saddr.exists_of_isS2 h
    rfl
  case saddr.a x =>
    obtain ⟨o, rfl⟩ := Saddr.exists_of_isS2 h
    rfl
  case r.saddr n x => exact (dec38_r x.cls_lt _ rest n).trans (by rw [ccOp8_cls])
  case saddr.r x n => exact (dec38_r_store x.cls_lt _ rest n).trans (by rw [ccOp8_cls])
  case a.sfr o => exact congrArg (fun s => Dec.ok (.mov _ s) rest) (movSfr_eq h)
  case sfr.a o => exact congrArg (fun d => Dec.ok (.mov d _) rest) (movSfr_eq h)
  case r.sfr n o => exact dec38_r (c := 2) (by decide) o rest n
  case sfr.r o n => exact dec38_r_store (c := 2) (by decide) o rest n
  case saddr.saddr x y => exact dec2A_byte x y (.inl rfl) rest
  case r.abs16 n a => cases n <;> (apply decodes_word a; rfl)
  case abs16.r a n => cases n <;> (apply decodes_word a; rfl)
  case r.abs24 n a => cases n <;> (apply decodes_long a; rfl)
  case abs24.r a n => cases n <;> (apply decodes_long a; rfl)
  case a.indP x => cases x <;> rfl
  case indP.a x => cases x <;> rfl
  case a.indG x => exact decodeRows_encInd (g := true) (op := 0) (by decide) nofun (by rfl) rest
  case indG.a x => exact decodeRows_encInd (g := true) (op := 0) (by decide) nofun (by rfl) rest
  case a.mem m =>
    cases m with
    | rind r => exact (decodeRows_encMovRInd r rest).1
    | based r off => exact decodeRows_encMem (st := false) (op := 0) (m := .based r off) (by decide) trivial rfl rest
    | indexed r l => exact decodeRows_encMem (st := false) (op := 0) (m := .indexed r l) (by decide) trivial rfl rest
    | bidx x => exact decodeRows_encMem (st := false) (op := 0) (m := .bidx x) (by decide) trivial rfl rest
  case mem.a m =>
    cases m with
    | rind r => exact (decodeRows_encMovRInd r rest).2
    | based r off => exact decodeRows_encMem (st := true) (op := 0) (m := .based r off) (by decide) trivial rfl rest
    | indexed r l => exact decodeRows_encMem (st := true) (op := 0) (m := .indexed r l) (by decide) trivial rfl rest
    | bidx x => exact decodeRows_encMem (st := true) (op := 0) (m := .bidx x) (by decide) trivial rfl rest
  case pswl.imm b => rfl
  case pswh.imm b => rfl
  case pswl.a => rfl
  case pswh.a => rfl
  case a.pswl => rfl
  case a.pswh => rfl
  case ext.imm e b => cases e <;> rfl
  case a.ext e => cases e <;> rfl
  case ext.a e => cases e <;> rfl

theorem decodeRows_encMovw {d s : Op16} (h : movwForm d s = true) (rest : List Byte) :
    decodeRows (encMovw d s ++ rest) = .ok (.movw d s) rest := by
  cases d <;> cases s <;> try exact absurd h Bool.false_ne_true
  case rp.imm n w => cases n <;> (apply decodes_word w; rfl)
  case saddr.imm x w => cases x <;> (apply decodes_word w; rfl)
  case sfr.imm o w => apply decodes_word w; rfl
  case abs16.imm a w => apply decodes_word a; apply decodes_word w; rfl
  case abs24.imm a w => apply decodes_long a; apply decodes_word w; rfl
  case rp.rp n m => cases n <;> cases m <;> rfl
  case ax.saddr x =>
    obtain ⟨o, rfl⟩ := Saddr.exists_of_isS2 h
    rfl
  case saddr.ax x =>
    obtain ⟨o, rfl⟩ := Saddr.exists_of_isS2 h
    rfl
  case rp.saddr n x => exact (dec38_rp x.cls_lt _ rest n).trans (by rw [ccOp16_cls])
  case saddr.rp x n => exact (dec38_rp_store x.cls_lt _ rest n).trans (by rw [ccOp16_cls])
  case ax.sfr o => rfl
  case sfr.ax o => rfl
  case rp.sfr n o => exact dec38_rp (c := 2) (by decide) o rest n
  case sfr.rp o n => exact dec38_rp_store (c := 2) (by decide) o rest n
  case saddr.saddr x y => exact dec2A_word x y (.inl rfl) rest
  case rp.abs16 n a => cases n <;> (apply decodes_word a; rfl)
  case abs16.rp a n => cases n <;> (apply decodes_word a; rfl)
  case rp.abs24 n a => cases n <;> (apply decodes_long a; rfl)
  case abs24.rp a n => cases n <;> (apply decodes_long a; rfl)
  case ax.indP x => exact decodeRows_encInd (g := false) (op := 1) (by decide) (by decide) (by rfl) rest
  case indP.ax x => exact decodeRows_encInd (g := false) (op := 1) (by decide) (by decide) (by rfl) rest
  case ax.indG x => exact decodeRows_encInd (g := true) (op := 1) (by decide) nofun (by rfl) rest
  case indG.ax x => exact decodeRows_encInd (g := true) (op := 1) (by decide) nofun (by rfl) rest
  case ax.mem m => exact decodeRows_encMem (op := 1) (by decide) (m.takes_of_ne (by decide) (by decide)) rfl rest
  case mem.ax m => exact decodeRows_encMem (op := 1) (by decide) (m.takes_of_ne (by decide) (by decide)) rfl rest

theorem decodeRows_encMovg {d s : Op24} (h : movgForm d s = true) (rest : List Byte) :
    decodeRows (encMovg d s ++ rest) = .ok (.movg d s) rest := by
  cases d <;> cases s <;> try exact absurd h Bool.false_ne_true
  case rg.imm g l => cases g <;> (apply decodes_long l; rfl)
  case rg.rg g g' => cases g <;> cases g' <;> rfl
  case rg.abs24 g a => cases g <;> (apply decodes_long a; rfl)
  case abs24.rg a g => cases g <;> (apply decodes_long a; rfl)
  case rg.saddr g x => cases x <;> dsimp only [encMovg, Saddr.cls, Saddr.off] <;> cases g <;> rfl
  case saddr.rg x g => cases x <;> dsimp only [encMovg, Saddr.cls, Saddr.off] <;> cases g <;> rfl
  case rg.indG g x =>
    obtain rfl := beq_iff_eq.mp h
    exact decodeRows_encInd (g := true) (op := 2) (by decide) nofun (by rfl) rest
  case indG.rg x g =>
    obtain rfl := beq_iff_eq.mp h
    exact decodeRows_encInd (g := true) (op := 2) (by decide) nofun (by rfl) rest
  case rg.mem g m =>
    obtain ⟨hg, hm⟩ := Bool.and_eq_true_iff.mp h
    obtain rfl := beq_iff_eq.mp hg
    exact decodeRows_encMem (op := 2) (by decide) (Mem.takes_of_isMem1 hm) rfl rest
  case mem.rg m g =>
    obtain ⟨hg, hm⟩ := Bool.and_eq_true_iff.mp h
    obtain rfl := beq_iff_eq.mp hg
    exact decodeRows_encMem (op := 2) (by decide) (Mem.takes_of_isMem1 hm) rfl rest
  case sp.imm l => apply decodes_long l; rfl
  case sp.rg g =>
    obtain rfl := beq_iff_eq.mp h
    rfl
  case rg.sp g =>
    obtain rfl := beq_iff_eq.mp h
    rfl

theorem decodeRows_encXch {d s : Op8} (h : xchForm d s = true) (rest : List Byte) :
    decodeRows (encXch d s ++ rest) = .ok (.xch d s) rest := by
  cases d <;> cases s <;> try exact absurd h Bool.false_ne_true
  case r.r n m =>
    exact decodeRows_regPair (b1 := 0x25#8) (f := fun n m => .xch (.r n) (.r m)) (by decide) (fun _ _ _ h => if_pos h)
      n m rest
  case a.r n => cases n <;> rfl
  case a.saddr x =>
    obtain ⟨o, rfl⟩ := Saddr.exists_of_isS2 h
    rfl
  case r.saddr n x => exact (dec39_r x.cls_lt _ rest n).trans (by rw [ccOp8_cls])
  case r.sfr n o => exact dec39_r (c := 2) (by decide) o rest n
  case saddr.saddr x y => exact dec2A_byte x y (.inr (.inl rfl)) rest
  case r.abs16 n a => cases n <;> (apply decodes_word a; rfl)
  case r.abs24 n a => cases n <;> (apply decodes_long a; rfl)
  case a.indP x => cases x <;> rfl
  case a.indG x => exact decodeRows_encInd (g := true) (op := 4) (by decide) nofun (by rfl) rest
  case a.mem m => exact decodeRows_encMem (op := 4) (by decide) (m.takes_of_ne (by decide) (by decide)) rfl rest

theorem decodeRows_encXchw {d s : Op16} (h : xchwForm d s = true) (rest : List Byte) :
    decodeRows (encXchw d s ++ rest) = .ok (.xchw d s) rest := by
  cases d <;> cases s <;> try exact absurd h Bool.false_ne_true
  case rp.rp n m => cases n <;> cases m <;> rfl
  case ax.saddr x =>
    obtain ⟨o, rfl⟩ := Saddr.exists_of_isS2 h
    rfl
  case rp.saddr n x => exact (dec39_rp x.cls_lt _ rest n).trans (by rw [ccOp16_cls])
  case rp.sfr n o => exact dec39_rp (c := 2) (by decide) o rest n
  case saddr.saddr x y => exact dec2A_word x y (.inr (.inl rfl)) rest
  case ax.indP x => exact decodeRows_encInd (g := false) (op := 5) (by decide) (by decide) (by rfl) rest
  case ax.indG x => exact decodeRows_encInd (g := true) (op := 5) (by decide) nofun (by rfl) rest
  case ax.abs16 a => apply decodes_word a; rfl
  case ax.abs24 a => apply decodes_long a; rfl
  case ax.mem m => exact decodeRows_encMem (op := 5) (by decide) (m.takes_of_ne (by decide) (by decide)) rfl rest

/-! ## The 8-, 16- and 24-bit operations -/

theorem accOp_alu {k : Nat} (hk : k < 8) (m8 : Op8) (m16 : Op16) (m24 : Op24) :
    accOp false (8 + k) m8 m16 m24 = some (aluInstr k .a m8) ∧
    accOp true (8 + k) m8 m16 m24 = some (aluInstr k m8 .a) := by
  cases k, hk using belowEight <;> exact ⟨rfl, rfl⟩

section

variable {k : Nat} (hk : k < 8) (p : Bool) (bs : List Byte)
include hk

theorem decodeRows_nib7 : decodeRows (nib 7 (8 + k) :: bs) = need1 bs fun b bs => dec78 k b.toNat bs := by
  cases k, hk using belowEight <;> rfl

theorem decodeOp_nib8 : decodeOp p (nib 8 (8 + k)).toNat bs = need1 bs fun b bs => dec88 p k b.toNat bs := by
  cases k, hk using belowEight <;> rfl

theorem decodeRows_nib9 :
    decodeRows (nib 9 (8 + k) :: bs) = need1 bs fun o bs => .ok (aluInstr k .a (.saddr (.s2 o))) bs := by
  cases k, hk using belowEight <;> rfl

theorem decodeRows_nib10 :
    decodeRows (nib 10 (8 + k) :: bs) = need1 bs fun b bs => .ok (aluInstr k .a (.imm b)) bs := by
  cases k, hk using belowEight <;> rfl

theorem decodeOp_nib6 : decodeOp p (nib 6 (8 + k)).toNat bs =
    need1 bs fun o bs => need1 bs fun b bs => .ok (aluInstr k (.saddr (saddrOf p o)) (.imm b)) bs := by
  cases k, hk using belowEight <;> rfl

theorem decodeRows_encAlu8 {d s : Op8} (h : alu8Form d s = true) (rest : List Byte) :
    decodeRows (encAlu8 k d s ++ rest) = .ok (aluInstr k d s) rest := by
  have hop : 8 + k < 16 := by omega
  have hg : ¬ (8 + k = 0 ∨ 8 + k = 2 ∨ 8 + k = 4) := by omega
  have htakes (m : Mem) : m.takes (8 + k) := m.takes_of_ne (by omega) (by omega)
  cases d <;> cases s <;> try exact absurd h Bool.false_ne_true
  case a.imm b => exact decodeRows_nib10 hk (b :: rest)
  case r.imm n b => exact (decodeRows_nib7 hk _).trans (dec78_r_imm k n b rest)
  case saddr.imm x b =>
    obtain ⟨p, hp, hpre⟩ := x.exists_saddrOf
    rw [encAlu8, hpre, List.append_assoc]
    refine (decodeRows_pre3C p (nib_ne_3C (by decide) hop (by decide)) _).trans ?_
    exact (decodeOp_nib6 hk p _).trans (congrArg (fun x => Dec.ok (aluInstr k (.saddr x) (.imm b)) rest) hp)
  case sfr.imm o b => cases k, hk using belowEight <;> rfl
  case r.r n m =>
    refine decodeRows_regPair (b1 := nib 8 (8 + k)) (f := fun n m => aluInstr k (.r n) (.r m))
      (nib_ne_3C (by decide) hop (by decide)) (fun p b bs h => ?_) n m rest
    exact (decodeOp_nib8 hk p _).trans (if_pos h)
  case a.saddr x =>
    obtain ⟨o, rfl⟩ := Saddr.exists_of_isS2 h
    exact decodeRows_nib9 hk (o :: rest)
  case r.saddr n x =>
    refine (decodeRows_nib7 hk _).trans ?_
    exact (dec78_r x.cls_lt _ rest k n).trans (by rw [ccOp8_cls])
  case saddr.r x n =>
    refine (decodeRows_nib7 hk _).trans ?_
    exact (dec78_r_store x.cls_lt _ rest k n).trans (by rw [ccOp8_cls])
  case r.sfr n o => exact (decodeRows_nib7 hk _).trans (dec78_r (c := 2) (by decide) o rest k n)
  case sfr.r o n => exact (decodeRows_nib7 hk _).trans (dec78_r_store (c := 2) (by decide) o rest k n)
  case saddr.saddr x y =>
    rw [encAlu8, dec2A_byte x y (by omega), if_neg (by omega), if_neg (by omega), Nat.add_sub_cancel_left]
  case a.indP x => exact decodeRows_encInd (g := false) hop (fun _ => hg) (accOp_alu hk ..).1 rest
  case indP.a x => exact decodeRows_encInd (g := false) hop (fun _ => hg) (accOp_alu hk ..).2 rest
  case a.indG x => exact decodeRows_encInd (g := true) hop nofun (accOp_alu hk ..).1 rest
  case indG.a x => exact decodeRows_encInd (g := true) hop nofun (accOp_alu hk ..).2 rest
  case a.abs16 a => cases k, hk using belowEight <;> (apply decodes_word a; rfl)
  case abs16.a a => cases k, hk using belowEight <;> (apply decodes_word a; rfl)
  case a.abs24 a => cases k, hk using belowEight <;> (apply decodes_long a; rfl)
  case abs24.a a => cases k, hk using belowEight <;> (apply decodes_long a; rfl)
  case a.mem m => exact decodeRows_encMem hop (htakes m) (accOp_alu hk ..).1 rest
  case mem.a m => exact decodeRows_encMem hop (htakes m) (accOp_alu hk ..).2 rest

end

/-- The code and the nibble of ADDW, SUBW and CMPW (44_alu16_24 R430). -/
def IsWordOp (k x : Nat) : Prop := k = 0 ∧ x = 13 ∨ k = 2 ∧ x = 14 ∨ k = 7 ∧ x = 15

theorem decodeRows_encAlu16 {k x : Nat} (hkx : IsWordOp k x) {d s : Op16} (h : alu16Form d s = true)
    (rest : List Byte) : decodeRows (encAlu16 k x d s ++ rest) = assigned (aluWord k d s) rest := by
  have hk : k = 0 ∨ k = 2 ∨ k = 7 := by unfold IsWordOp at hkx; omega
  have hlt : k < 8 := by omega
  cases d <;> cases s <;> try exact absurd h Bool.false_ne_true
  case rp.imm n w => exact (decodeRows_nib7 hlt _).trans (dec78_rp_imm hk n w rest)
  case rp.saddr n x =>
    refine (decodeRows_nib7 hlt _).trans ?_
    exact (dec78_rp x.cls_lt _ rest hk n).trans (by rw [ccOp16_cls])
  case saddr.rp x n =>
    refine (decodeRows_nib7 hlt _).trans ?_
    exact (dec78_rp_store x.cls_lt _ rest hk n).trans (by rw [ccOp16_cls])
  case rp.sfr n o => exact (decodeRows_nib7 hlt _).trans (dec78_rp (c := 2) (by decide) o rest hk n)
  case sfr.rp o n => exact (decodeRows_nib7 hlt _).trans (dec78_rp_store (c := 2) (by decide) o rest hk n)
  case ax.saddr y =>
    obtain ⟨o, rfl⟩ := Saddr.exists_of_isS2 h
    obtain ⟨rfl, rfl⟩ | ⟨rfl, rfl⟩ | ⟨rfl, rfl⟩ := hkx <;> rfl
  case rp.rp n m =>
    have hrow (k : Nat) (rest : List Byte) :
        dec88 false k (ppp01 n m.ppp).toNat rest = assigned (aluWord k (.rp n) (.rp m)) rest := by
      cases n <;> cases m <;> rfl
    refine ((decodeRows_pre3C false (nib_ne_3C (by decide) (by omega) (by decide)) _).trans
      (decodeOp_nib8 hlt false _)).trans (hrow k rest)
  case saddr.saddr y z =>
    obtain ⟨rfl, rfl⟩ | ⟨rfl, rfl⟩ | ⟨rfl, rfl⟩ := hkx <;> exact dec2A_word y z (by decide) rest
  case ax.imm w => obtain ⟨rfl, rfl⟩ | ⟨rfl, rfl⟩ | ⟨rfl, rfl⟩ := hkx <;> (apply decodes_word w; rfl)
  case saddr.imm y w =>
    obtain ⟨rfl, rfl⟩ | ⟨rfl, rfl⟩ | ⟨rfl, rfl⟩ := hkx <;> cases y <;> (apply decodes_word w; rfl)
  case sfr.imm o w => obtain ⟨rfl, rfl⟩ | ⟨rfl, rfl⟩ | ⟨rfl, rfl⟩ := hkx <;> (apply decodes_word w; rfl)

theorem decodeRows_encAlu24 {k : Nat} (hk : k = 0 ∨ k = 2) {d s : Op24} (h : alu24Form d s = true)
    (rest : List Byte) : decodeRows (encAlu24 k d s ++ rest) = assigned (aluLong k d s) rest := by
  cases d <;> cases s <;> try exact absurd h Bool.false_ne_true
  case rg.rg g g' => obtain rfl | rfl := hk <;> cases g <;> cases g' <;> rfl
  case rg.imm g l => obtain rfl | rfl := hk <;> cases g <;> (apply decodes_long l; rfl)
  case rg.saddr g x =>
    obtain rfl := beq_iff_eq.mp h
    obtain rfl | rfl := hk <;> cases x <;> dsimp only [encAlu24, Saddr.cls, Saddr.off] <;> rfl

/-! ## INC to DECG -/

theorem decodeRows_encInc {o : Op8} (h : incForm o = true) (rest : List Byte) :
    decodeRows (encInc 0 o ++ rest) = .ok (.inc o) rest ∧ decodeRows (encInc 1 o ++ rest) = .ok (.dec o) rest := by
  cases o <;> try exact absurd h Bool.false_ne_true
  case r n => cases n <;> exact ⟨rfl, rfl⟩
  case saddr x => cases x <;> exact ⟨rfl, rfl⟩

theorem decodeRows_encIncw {o : Op16} (h : incwForm o = true) (rest : List Byte) :
    decodeRows (encIncw 0 o ++ rest) = .ok (.incw o) rest ∧ decodeRows (encIncw 1 o ++ rest) = .ok (.decw o) rest := by
  cases o <;> try exact absurd h Bool.false_ne_true
  case rp n => cases n <;> exact ⟨rfl, rfl⟩
  case saddr x => cases x <;> exact ⟨rfl, rfl⟩

theorem decodeRows_encIncg {o : Op24} (h : incgForm o = true) (rest : List Byte) :
    decodeRows (encIncg 0 o ++ rest) = .ok (.incg o) rest ∧ decodeRows (encIncg 1 o ++ rest) = .ok (.decg o) rest := by
  cases o <;> try exact absurd h Bool.false_ne_true
  case rg g => cases g <;> exact ⟨rfl, rfl⟩
  case sp => exact ⟨rfl, rfl⟩

/-! ## Shifts and rotates (R193) -/

/-- The operand byte of a shift: the kind, the count, the register. -/
theorem shift_fields {tt r : Nat} (c : Fin 8) (htt : tt < 4) (hr : r < 8) :
    (byteOf (64 * tt + 8 * c.val + r)).toNat / 64 = tt ∧
    bitNum ((byteOf (64 * tt + 8 * c.val + r)).toNat / 8) = c ∧
    (byteOf (64 * tt + 8 * c.val + r)).toNat % 8 = r := by
  have hc := c.isLt
  rw [byteOf_toNat (by omega)]
  exact ⟨by omega, bitNum_eq (by omega), by omega⟩

theorem decodeRows_encShift {left : Bool} {tt : Nat} {f : R8 → Fin 8 → Instr} (htt : tt < 3)
    (hrow : ∀ p m bs, m / 64 = tt → decShift p left m bs = .ok (f (regOf p m) (bitNum (m / 8))) bs)
    (n : R8) (c : Fin 8) (rest : List Byte) :
    decodeRows (encShift (if left then 0x31#8 else 0x30#8) tt n c ++ rest) = .ok (f n c) rest := by
  obtain ⟨hkind, hcount, hreg⟩ := shift_fields (r := n.num % 8) c (show tt < 4 by omega) (by omega)
  have hshift (p : Bool) : decodeOp p (if left then 0x31#8 else 0x30#8 : Byte).toNat =
      fun bs => need1 bs fun b bs => decShift p left b.toNat bs := by cases left <;> rfl
  rw [encShift, R8.pre_eq, List.append_assoc]
  refine (decodeRows_pre3C _ (by cases left <;> decide) _).trans ?_
  refine (congrFun (hshift _) _).trans ((hrow _ _ rest hkind).trans ?_)
  rw [hcount, regOf_eq hreg]

theorem decodeRows_encShiftW (n : RP) (c : Fin 8) (rest : List Byte) :
    decodeRows (encShiftW 0x30#8 n c ++ rest) = .ok (.shrw n c) rest ∧
    decodeRows (encShiftW 0x31#8 n c ++ rest) = .ok (.shlw n c) rest := by
  obtain ⟨hkind, hcount, hreg⟩ := shift_fields (tt := 3) c (by decide) n.ppp_lt
  constructor
  · show decShift false false (byteOf (64 * 3 + 8 * c.val + n.ppp)).toNat rest = _
    simp only [decShift, hkind, hcount, hreg, RP.ofPpp_ppp, noPrefix]
    rfl
  · show decShift false true (byteOf (64 * 3 + 8 * c.val + n.ppp)).toNat rest = _
    simp only [decShift, hkind, hcount, hreg, RP.ofPpp_ppp, noPrefix]
    rfl

/-! ## Bit operands (R189, 48_bit R560) -/

/-- A bit operation in the high nibble; the operand's choice and the bit number in the low one. -/
theorem bit_fields {op : Nat} (hop : op < 16) (b : Fin 8) :
    ((nib op b.val).toNat / 16 = op ∧ (nib op b.val).toNat / 8 % 2 = 0 ∧ bitNum (nib op b.val).toNat = b) ∧
    (nib op (8 + b.val)).toNat / 16 = op ∧ (nib op (8 + b.val)).toNat / 8 % 2 = 1 ∧
      bitNum (nib op (8 + b.val)).toNat = b := by
  have hb := b.isLt
  rw [nib_toNat hop (by omega), nib_toNat hop (by omega)]
  exact ⟨⟨by omega, by omega, bitNum_eq (by omega)⟩, by omega, by omega, bitNum_eq (by omega)⟩

/-- SET1, CLR1 and BT of a short direct bit have a row of their own for each bit number (R189). -/
theorem decodeOp_saddrBit (p : Bool) (b : Fin 8) (bs : List Byte) :
    decodeOp p (nib 11 b.val).toNat bs = need1 bs (fun o bs => decBitOp 8 (.saddr (saddrOf p o)) b bs) ∧
    decodeOp p (nib 10 b.val).toNat bs = need1 bs (fun o bs => decBitOp 9 (.saddr (saddrOf p o)) b bs) ∧
    decodeOp p (nib 7 b.val).toNat bs = need1 bs (fun o bs => decBitOp 11 (.saddr (saddrOf p o)) b bs) := by
  cases b using Machine.eightCases <;> exact ⟨rfl, rfl, rfl⟩

theorem decodeRows_encBit_saddr {op : Nat} (hop : op < 14) (y : Saddr) (b : Fin 8) (rest : List Byte) :
    decodeRows (encBit op (.saddr y) b ++ rest) = decBitOp op (.saddr y) b rest := by
  obtain ⟨⟨hop0, hs0, hb0⟩, -⟩ := bit_fields (show op < 16 by omega) b
  obtain ⟨p, hp, hpre⟩ := y.exists_saddrOf
  obtain ⟨hset, hclr, hbt⟩ := decodeOp_saddrBit p b (y.off :: rest)
  have hb : b.val < 16 := by omega
  have hrow {b1 : Byte} {bs : List Byte} (hb1 : b1 ≠ 0x3C#8)
      (h : decodeOp p b1.toNat bs = decBitOp op (.saddr (saddrOf p y.off)) b rest) :
      decodeRows (pre3C p ++ b1 :: bs) = decBitOp op (.saddr y) b rest := by
    rw [decodeRows_pre3C p hb1, h, hp]
  simp only [encBit, hpre]
  split
  case isTrue h8 =>
    subst h8
    rw [List.append_assoc]
    exact hrow (nib_ne_3C (by decide) hb (by decide)) hset
  split
  case isFalse.isTrue h9 =>
    subst h9
    rw [List.append_assoc]
    exact hrow (nib_ne_3C (by decide) hb (by decide)) hclr
  split
  case isFalse.isFalse.isTrue h11 =>
    subst h11
    rw [List.append_assoc]
    exact hrow (nib_ne_3C (by decide) hb (by decide)) hbt
  case isFalse.isFalse.isFalse h8 h9 h11 =>
    rw [List.append_assoc]
    refine hrow (by decide) ?_
    show decBits08 p _ (y.off :: rest) = _
    simp only [decBits08, hop0, hs0, hb0, if_neg (show ¬ 14 ≤ op by omega)]
    exact (if_pos trivial).trans (if_neg (by omega))

theorem decodeRows_encBit {op : Nat} (hop : op < 14) (x : BitLoc) (b : Fin 8) (rest : List Byte) :
    decodeRows (encBit op x b ++ rest) = decBitOp op x b rest := by
  obtain ⟨⟨hop0, hs0, hb0⟩, hop1, hs1, hb1⟩ := bit_fields (show op < 16 by omega) b
  have hrow (x0 x1 : BitLoc) : decBits x0 x1 (nib op b.val).toNat rest = decBitOp op x0 b rest ∧
      decBits x0 x1 (nib op (8 + b.val)).toNat rest = decBitOp op x1 b rest := by
    simp only [decBits, hop0, hs0, hb0, hop1, hs1, hb1]
    exact ⟨rfl, rfl⟩
  cases x with
  | saddr y => exact decodeRows_encBit_saddr hop y b rest
  | sfr o =>
    show decBits08 false _ (o :: rest) = _
    simp only [decBits08, hop1, hs1, hb1, if_neg (show ¬ 14 ≤ op by omega)]
    rfl
  | regX => exact (hrow .regX .regA).1
  | regA => exact (hrow .regX .regA).2
  | pswl => exact (hrow .pswl .pswh).1
  | pswh => exact (hrow .pswl .pswh).2
  | tde => exact (hrow .tde .whl).1
  | whl => exact (hrow .tde .whl).2
  | abs16 a =>
    show decBitsAbs _ (le16 a ++ rest) = _
    simp only [decBitsAbs, hop0, hs0, hb0, if_neg (show ¬ 14 ≤ op by omega), need2_le16]
    rfl
  | abs24 a =>
    show decBitsAbs _ (hw24 a ++ rest) = _
    simp only [decBitsAbs, hop1, hs1, hb1, if_neg (show ¬ 14 ≤ op by omega), need3w_hw24]
    rfl

/-! ## Calls, branches and the stack -/

/-- The four bits and the two bytes of a 20-bit address (R178). -/
theorem PAddr.append_bytes (a : PAddr) {n : Nat} (h : n % 16 = (a.extractLsb' 16 4).toNat) :
    BitVec.ofNat 4 n ++ a.extractLsb' 0 16 = a := by
  have hn : BitVec.ofNat 4 n = a.extractLsb' 16 4 := BitVec.eq_of_toNat_eq ((BitVec.toNat_ofNat ..).trans h)
  rw [hn]
  exact (BitVec.extractLsb'_append_extractLsb'_eq_extractLsb' (start₁ := 0) rfl).trans BitVec.extractLsb'_eq_self

theorem decodeRows_encTarget_abs20 (a : PAddr) (rest : List Byte) :
    decodeRows (encTarget 0 (.abs20 a) ++ rest) = .ok (.br (.abs20 a)) rest ∧
    decodeRows (encTarget 1 (.abs20 a) ++ rest) = .ok (.call (.abs20 a)) rest := by
  have hlt := (a.extractLsb' 16 4).isLt
  have hrow (c : Nat) (hc : c < 2) :
      dec09 (nib (14 + c) (a.extractLsb' 16 4).toNat).toNat (le16 (a.extractLsb' 0 16) ++ rest) =
        .ok (if c = 0 then .br (.abs20 a) else .call (.abs20 a)) rest := by
    have hhigh := nib_div (h := 14 + c) (by omega) hlt
    have hlow := nib_mod (h := 14 + c) (by omega) hlt
    cases c, hc using belowTwo <;> simp only [dec09, hhigh, need2_le16, a.append_bytes hlow] <;> rfl
  exact ⟨hrow 0 (by decide), hrow 1 (by decide)⟩

theorem decodeRows_encTarget_br (t : Target) (rest : List Byte) :
    decodeRows (encTarget 0 t ++ rest) = .ok (.br t) rest := by
  cases t
  case abs16 w => apply decodes_word w; rfl
  case abs20 a => exact (decodeRows_encTarget_abs20 a rest).1
  case rp n => cases n <;> rfl
  case rg g => cases g <;> rfl
  case indRp n => cases n <;> rfl
  case indRg g => cases g <;> rfl
  case rel8 d => rfl
  case rel16 w => apply decodes_word w; rfl

theorem decodeRows_encTarget_call {t : Target} (h : callForm t = true) (rest : List Byte) :
    decodeRows (encTarget 1 t ++ rest) = .ok (.call t) rest := by
  cases t
  case abs16 w => apply decodes_word w; rfl
  case abs20 a => exact (decodeRows_encTarget_abs20 a rest).2
  case rp n => cases n <;> rfl
  case rg g => cases g <;> rfl
  case indRp n => cases n <;> rfl
  case indRg g => cases g <;> rfl
  case rel8 d => exact absurd h Bool.false_ne_true
  case rel16 w => apply decodes_word w; rfl

theorem decodeRows_callf (a : BitVec 11) (rest : List Byte) :
    decodeRows (nib 9 (a.extractLsb' 8 3).toNat :: a.extractLsb' 0 8 :: rest) = .ok (.callf a) rest := by
  have hrow (f : Fin 8) (b : Byte) :
      decodeRows (nib 9 f.val :: b :: rest) = .ok (.callf (BitVec.ofNat 3 f.val ++ b)) rest := by
    cases f using Machine.eightCases <;> rfl
  refine (hrow ⟨(a.extractLsb' 8 3).toNat, (a.extractLsb' 8 3).isLt⟩ _).trans ?_
  rw [BitVec.ofNat_toNat, BitVec.setWidth_eq]
  exact congrArg (fun a => Dec.ok (.callf a) rest)
    ((BitVec.extractLsb'_append_extractLsb'_eq_extractLsb' (start₁ := 0) rfl).trans BitVec.extractLsb'_eq_self)

theorem decodeRows_encStack (o : StackOp) (rest : List Byte) :
    decodeRows (encStack 0 o ++ rest) = .ok (.pop o) rest ∧ decodeRows (encStack 1 o ++ rest) = .ok (.push o) rest := by
  cases o
  case rg g => cases g <;> exact ⟨rfl, rfl⟩
  all_goals exact ⟨rfl, rfl⟩

theorem decodeRows_callt (t : Fin 32) (rest : List Byte) :
    decodeRows (byteOf (0xE0 + t.val) :: rest) = .ok (.callt t) rest := by
  have ht := t.isLt
  have hbyte : (byteOf (0xE0 + t.val)).toNat = 0xE0 + t.val := byteOf_toNat (by omega)
  have hne : byteOf (0xE0 + t.val) ≠ 0x3C#8 := fun h => by
    rw [h] at hbyte
    exact absurd hbyte (by show 0x3C ≠ _; omega)
  have htarget (h : (0xE0 + t.val) % 32 < 32) : (⟨(0xE0 + t.val) % 32, h⟩ : Fin 32) = t :=
    Fin.ext (by dsimp only; omega)
  refine (decodeRows_pre3C false hne rest).trans ?_
  rw [hbyte]
  obtain h | h : (0xE0 + t.val) / 16 = 14 ∨ (0xE0 + t.val) / 16 = 15 := by omega
  all_goals
    simp only [decodeOp, h, htarget]
    rfl

/-! ## The three operation codes (R194) -/

theorem decode_movStbc (o : Opcodes) (nb b : Byte) (rest : List Byte) :
    decode o (encode o (.movStbc nb b) ++ rest) = .ok (.movStbc nb b) rest :=
  if_pos rfl

theorem decode_location {o : Opcodes} (ho : o.free) (lo hi : Byte) (rest : List Byte) :
    decode o (encode o (.location lo hi) ++ rest) = .ok (.location lo hi) rest := by
  have hdistinct : o.location ≠ o.movStbc := fun h => by simp [Opcodes.free, h] at ho
  exact (if_neg hdistinct).trans (if_pos rfl)

theorem decode_movWdm {o : Opcodes} (ho : o.free) (nb b : Byte) (rest : List Byte) :
    decode o (encode o (.movWdm nb b) ++ rest) = .ok (.movWdm nb b) rest := by
  have hstbc : o.movWdm ≠ o.movStbc := fun h => by simp [Opcodes.free, h] at ho
  have hlocation : o.movWdm ≠ o.location := fun h => by simp [Opcodes.free, h] at ho
  exact (if_neg hstbc).trans ((if_neg hlocation).trans (if_pos rfl))

/-! ## O1 -/

/-- Settles O1, by the constructors of the instruction: the three operation codes of R194 first, then the rows. -/
theorem encodeThenDecode : Obligations.EncodeThenDecode := by
  intro o i rest ho h
  cases i
  case movStbc nb b => exact decode_movStbc o nb b rest
  case location lo hi => exact decode_location ho lo hi rest
  case movWdm nb b => exact decode_movWdm ho nb b rest
  all_goals refine decode_of_decodeRows ho ?_
  case mov => exact decodeRows_encMov h rest
  case movw => exact decodeRows_encMovw h rest
  case movg => exact decodeRows_encMovg h rest
  case xch => exact decodeRows_encXch h rest
  case xchw => exact decodeRows_encXchw h rest
  case add => exact decodeRows_encAlu8 (k := 0) (by decide) h rest
  case addc => exact decodeRows_encAlu8 (k := 1) (by decide) h rest
  case sub => exact decodeRows_encAlu8 (k := 2) (by decide) h rest
  case subc => exact decodeRows_encAlu8 (k := 3) (by decide) h rest
  case and => exact decodeRows_encAlu8 (k := 4) (by decide) h rest
  case xor => exact decodeRows_encAlu8 (k := 5) (by decide) h rest
  case or => exact decodeRows_encAlu8 (k := 6) (by decide) h rest
  case cmp => exact decodeRows_encAlu8 (k := 7) (by decide) h rest
  case addw => exact decodeRows_encAlu16 (.inl ⟨rfl, rfl⟩) h rest
  case subw => exact decodeRows_encAlu16 (.inr (.inl ⟨rfl, rfl⟩)) h rest
  case cmpw => exact decodeRows_encAlu16 (.inr (.inr ⟨rfl, rfl⟩)) h rest
  case addg => exact decodeRows_encAlu24 (.inl rfl) h rest
  case subg => exact decodeRows_encAlu24 (.inr rfl) h rest
  case mulu n | divuw n | muluw n | mulw n | divux n => cases n <;> rfl
  case inc => exact (decodeRows_encInc h rest).1
  case dec => exact (decodeRows_encInc h rest).2
  case incw => exact (decodeRows_encIncw h rest).1
  case decw => exact (decodeRows_encIncw h rest).2
  case incg => exact (decodeRows_encIncg h rest).1
  case decg => exact (decodeRows_encIncg h rest).2
  case rorc n c =>
    exact decodeRows_encShift (left := false) (f := .rorc) (tt := 0) (by decide)
      (fun _ _ _ h => by simp only [decShift, h]) n c rest
  case ror n c =>
    exact decodeRows_encShift (left := false) (f := .ror) (tt := 1) (by decide)
      (fun _ _ _ h => by simp only [decShift, h]) n c rest
  case shr n c =>
    exact decodeRows_encShift (left := false) (f := .shr) (tt := 2) (by decide)
      (fun _ _ _ h => by simp only [decShift, h]) n c rest
  case rolc n c =>
    exact decodeRows_encShift (left := true) (f := .rolc) (tt := 0) (by decide)
      (fun _ _ _ h => by simp only [decShift, h]) n c rest
  case rol n c =>
    exact decodeRows_encShift (left := true) (f := .rol) (tt := 1) (by decide)
      (fun _ _ _ h => by simp only [decShift, h]) n c rest
  case shl n c =>
    exact decodeRows_encShift (left := true) (f := .shl) (tt := 2) (by decide)
      (fun _ _ _ h => by simp only [decShift, h]) n c rest
  case shrw n c => exact (decodeRows_encShiftW n c rest).1
  case shlw n c => exact (decodeRows_encShiftW n c rest).2
  case ror4 m | rol4 m => cases m <;> rfl
  case mov1Cy x b => exact decodeRows_encBit (op := 0) (by decide) x b rest
  case mov1To x b => exact decodeRows_encBit (op := 1) (by decide) x b rest
  case and1 neg x b =>
    cases neg
    · exact decodeRows_encBit (op := 2) (by decide) x b rest
    · exact decodeRows_encBit (op := 3) (by decide) x b rest
  case or1 neg x b =>
    cases neg
    · exact decodeRows_encBit (op := 4) (by decide) x b rest
    · exact decodeRows_encBit (op := 5) (by decide) x b rest
  case xor1 x b => exact decodeRows_encBit (op := 6) (by decide) x b rest
  case not1 t =>
    cases t with
    | cy => rfl
    | bit x b => exact decodeRows_encBit (op := 7) (by decide) x b rest
  case set1 t =>
    cases t with
    | cy => rfl
    | bit x b => exact decodeRows_encBit (op := 8) (by decide) x b rest
  case clr1 t =>
    cases t with
    | cy => rfl
    | bit x b => exact decodeRows_encBit (op := 9) (by decide) x b rest
  case bf x b d =>
    rw [encode, List.append_assoc]
    exact decodeRows_encBit (op := 10) (by decide) x b (d :: rest)
  case bt x b d =>
    rw [encode, List.append_assoc]
    exact decodeRows_encBit (op := 11) (by decide) x b (d :: rest)
  case bfset x b d =>
    rw [encode, List.append_assoc]
    exact decodeRows_encBit (op := 12) (by decide) x b (d :: rest)
  case btclr x b d =>
    rw [encode, List.append_assoc]
    exact decodeRows_encBit (op := 13) (by decide) x b (d :: rest)
  case push => exact (decodeRows_encStack _ rest).2
  case pop => exact (decodeRows_encStack _ rest).1
  case addwg w | subwg w | retcs w | retcsb w => apply decodes_word w; rfl
  case call => exact decodeRows_encTarget_call h rest
  case br => exact decodeRows_encTarget_br _ rest
  case callf a => exact decodeRows_callf a rest
  case callt t => exact decodeRows_callt t rest
  case brkcs n | sel n | selAlt n => cases n using Machine.eightCases <;> rfl
  case dbnz t d =>
    cases t with
    | b => rfl
    | c => rfl
    | saddr x => cases x <;> rfl
  case movm d | xchm d | movbk d | xchbk d | cmpme d | cmpmne d | cmpmc d | cmpmnc d | cmpbke d |
      cmpbkne d | cmpbkc d | cmpbknc d => cases d <;> rfl
  -- The other rows have no field: their bytes are fixed or are operand bytes.
  all_goals rfl

/-- Settles O3: the decoder is run on the seven words. -/
theorem specWordsDecode : Obligations.SpecWordsDecode :=
  ⟨rfl, rfl, rfl, rfl, rfl, rfl, rfl⟩

end Sys2Proof
end

section
/-! What decodes is well formed and encodes to the bytes read (O2; 30_encoding R170 to R195): one rule for each way the
decoder goes on, and what the fields of a byte are. -/

namespace Sys2Proof

/-! ## Faithful answers -/

/-- An answer of the decoder that has read the bytes `pre` and has `bs` left: what it decodes is well formed and encodes
to the bytes read until then. -/
def Faithful (pre bs : List Byte) (d : Dec) : Prop :=
  ∀ o i rest, d = .ok i rest → i.wf = true ∧ encode o i ++ rest = pre ++ bs

namespace Faithful

variable {pre bs : List Byte}

theorem unassigned : Faithful pre bs .unassigned := fun _ _ _ h => nomatch h

theorem truncated : Faithful pre bs .truncated := fun _ _ _ h => nomatch h

theorem ok {i : Instr} (hwf : i.wf = true) (henc : ∀ o, encode o i = pre) : Faithful pre bs (.ok i bs) := by
  intro o j rest h
  cases h
  exact ⟨hwf, congrArg (· ++ bs) (henc o)⟩

theorem ite {c : Prop} [Decidable c] {d e : Dec} (hd : c → Faithful pre bs d) (he : ¬ c → Faithful pre bs e) :
    Faithful pre bs (if c then d else e) := by
  split
  case isTrue h => exact hd h
  case isFalse h => exact he h

/-- A row of the first byte whose low half differs from its high half. -/
theorem halves {l : Nat} {d e : Dec} (hl : l < 16) (hlow : l < 8 → Faithful pre bs d)
    (hhigh : ∀ k, k < 8 → l = 8 + k → Faithful pre bs e) : Faithful pre bs (if l < 8 then d else e) :=
  .ite hlow fun h8 => hhigh (l - 8) (by omega) (by omega)

theorem need1 {k : Byte → List Byte → Dec} (h : ∀ b bs, Faithful (pre ++ [b]) bs (k b bs)) :
    Faithful pre bs (need1 bs k) := by
  cases bs with
  | nil => exact truncated
  | cons b bs =>
    intro o i rest hd
    have hb := h b bs o i rest hd
    rwa [List.append_assoc] at hb

/-- A byte that the next table reads as a number. -/
theorem needField {k : Nat → List Byte → Dec}
    (h : ∀ n, n < 256 → ∀ bs, Faithful (pre ++ [byteOf n]) bs (k n bs)) :
    Faithful pre bs (Sys2Proof.need1 bs fun b bs => k b.toNat bs) :=
  need1 fun b bs => by
    have hb := h b.toNat b.isLt bs
    rwa [byteOf_toNat_self] at hb

theorem need2 {k : Word → List Byte → Dec} (h : ∀ w bs, Faithful (pre ++ le16 w) bs (k w bs)) :
    Faithful pre bs (need2 bs k) := by
  match bs with
  | [] | [_] => exact truncated
  | lo :: hi :: bs =>
    intro o i rest hd
    have hw := h _ bs o i rest hd
    rwa [le16_append, List.append_assoc] at hw

theorem need3 {k : Long → List Byte → Dec} (h : ∀ l bs, Faithful (pre ++ le24 l) bs (k l bs)) :
    Faithful pre bs (need3 bs k) := by
  match bs with
  | [] | [_] | [_, _] => exact truncated
  | lo :: hi :: hw :: bs =>
    intro o i rest hd
    have hl := h _ bs o i rest hd
    rwa [le24_append, List.append_assoc] at hl

theorem need3w {k : Long → List Byte → Dec} (h : ∀ l bs, Faithful (pre ++ hw24 l) bs (k l bs)) :
    Faithful pre bs (need3w bs k) := by
  match bs with
  | [] | [_] | [_, _] => exact truncated
  | hw :: lo :: hi :: bs =>
    intro o i rest hd
    have hl := h _ bs o i rest hd
    rwa [hw24_append, List.append_assoc] at hl

theorem noPrefix {p : Bool} {d : Dec} (h : Faithful pre bs d) : Faithful (pre3C p ++ pre) bs (noPrefix p d) := by
  cases p
  · exact h
  · exact unassigned

theorem assigned {oi : Option Instr} (h : ∀ i, oi = some i → i.wf = true ∧ ∀ o, encode o i = pre) :
    Faithful pre bs (assigned oi bs) := by
  cases oi with
  | none => exact unassigned
  | some i => exact .ok (h i rfl).1 (h i rfl).2

theorem alu8 {k : Nat} {d s : Op8} (hk : k < 8) (hform : alu8Form d s = true) (henc : encAlu8 k d s = pre) :
    Faithful pre bs (.ok (aluInstr k d s) bs) := by
  cases k, hk using belowEight <;> exact .ok hform fun _ => henc

theorem alu16 {k : Nat} {d s : Op16} (hform : alu16Form d s = true)
    (henc : ∀ x, IsWordOp k x → encAlu16 k x d s = pre) : Faithful pre bs (Sys2Proof.assigned (aluWord k d s) bs) := by
  unfold aluWord
  split
  · exact .ok hform fun _ => henc 13 (.inl ⟨rfl, rfl⟩)
  · exact .ok hform fun _ => henc 14 (.inr (.inl ⟨rfl, rfl⟩))
  · exact .ok hform fun _ => henc 15 (.inr (.inr ⟨rfl, rfl⟩))
  · exact unassigned

theorem alu24 {k : Nat} {d s : Op24} (hform : alu24Form d s = true) (henc : encAlu24 k d s = pre) :
    Faithful pre bs (Sys2Proof.assigned (aluLong k d s) bs) := by
  unfold aluLong
  split
  · exact .ok hform fun _ => henc
  · exact .ok hform fun _ => henc
  · exact unassigned

/-- A bit branch reads its displacement after the operand. -/
theorem bitOp {op : Nat} {x : BitLoc} {b : Fin 8} (henc : op < 14 → encBit op x b = pre) :
    Faithful pre bs (decBitOp op x b bs) := by
  unfold decBitOp
  split
  case h_11 | h_12 | h_13 | h_14 =>
    exact .need1 fun d bs => .ok rfl fun _ => congrArg (· ++ [d]) (henc (by decide))
  case h_15 => exact unassigned
  all_goals exact .ok rfl fun _ => henc (by decide)

end Faithful

/-! ## The mode byte (R175) -/

theorem opNibble_cases (op : Nat) : op < 8 ∨ (∃ k, k < 8 ∧ op = 8 + k) ∨ ∃ n, op = n + 16 := by
  rcases Nat.lt_or_ge op 8 with h8 | h8
  · exact .inl h8
  · rcases Nat.lt_or_ge op 16 with h16 | h16
    · exact .inr (.inl ⟨op - 8, by omega, by omega⟩)
    · exact .inr (.inr ⟨op - 16, by omega⟩)

/-- What an operation nibble stands for with the accumulator as destination. -/
theorem accOp_load {op : Nat} {m8 : Op8} {m16 : Op16} {m24 : Op24} {i : Instr}
    (h : accOp false op m8 m16 m24 = some i) :
    op = 0 ∧ i = .mov .a m8 ∨ op = 1 ∧ i = .movw .ax m16 ∨ op = 2 ∧ i = .movg (.rg .whl) m24 ∨
    op = 4 ∧ i = .xch .a m8 ∨ op = 5 ∧ i = .xchw .ax m16 ∨ ∃ k, k < 8 ∧ op = 8 + k ∧ i = aluInstr k .a m8 := by
  obtain hlow | ⟨k, hk, rfl⟩ | ⟨n, rfl⟩ := opNibble_cases op
  · cases op, hlow using belowEight <;> cases h <;> simp
  · cases (accOp_alu hk m8 m16 m24).1.symm.trans h
    exact .inr (.inr (.inr (.inr (.inr ⟨k, hk, rfl, rfl⟩))))
  · cases h

/-- What an operation nibble stands for with the accumulator as source. -/
theorem accOp_store {op : Nat} {m8 : Op8} {m16 : Op16} {m24 : Op24} {i : Instr}
    (h : accOp true op m8 m16 m24 = some i) :
    op = 0 ∧ i = .mov m8 .a ∨ op = 1 ∧ i = .movw m16 .ax ∨ op = 2 ∧ i = .movg m24 (.rg .whl) ∨
    ∃ k, k < 8 ∧ op = 8 + k ∧ i = aluInstr k m8 .a := by
  obtain hlow | ⟨k, hk, rfl⟩ | ⟨n, rfl⟩ := opNibble_cases op
  · cases op, hlow using belowEight <;> cases h <;> simp
  · cases (accOp_alu hk m8 m16 m24).2.symm.trans h
    exact .inr (.inr (.inr ⟨k, hk, rfl, rfl⟩))
  · cases h

theorem encode_aluInstr {k : Nat} (hk : k < 8) {d s : Op8} (hform : alu8Form d s = true) :
    (aluInstr k d s).wf = true ∧ ∀ o, encode o (aluInstr k d s) = encAlu8 k d s := by
  cases k, hk using belowEight <;> exact ⟨hform, fun _ => rfl⟩

theorem Mem.isMem1_of_takes {m : Mem} (h : m.takes 2) : m.isMem1 = true := by
  cases m with
  | rind r => cases r <;> simp [Mem.takes, RInd.num] at h ⊢ <;> rfl
  | _ => rfl

theorem encMov_mem {m : Mem} (h : m.takes 0) :
    encMov .a (.mem m) = encMem false 0 m ∧ encMov (.mem m) .a = encMem true 0 m := by
  cases m with
  | rind r =>
    have hr : ¬ r.num < 6 := fun hr => h.1 ⟨rfl, hr⟩
    exact ⟨if_neg hr, if_neg hr⟩
  | _ => exact ⟨rfl, rfl⟩

theorem accMem_encode {st : Bool} {op : Nat} {m : Mem} (hm : m.takes op) (i : Instr) (h : accMem st op m = some i) :
    i.wf = true ∧ ∀ o, encode o i = encMem st op m := by
  cases st with
  | false =>
    obtain ⟨rfl, rfl⟩ | ⟨rfl, rfl⟩ | ⟨rfl, rfl⟩ | ⟨rfl, rfl⟩ | ⟨rfl, rfl⟩ | ⟨k, hk, rfl, rfl⟩ := accOp_load h
    · exact ⟨rfl, fun _ => (encMov_mem hm).1⟩
    · exact ⟨rfl, fun _ => rfl⟩
    · exact ⟨Mem.isMem1_of_takes hm, fun _ => rfl⟩
    · exact ⟨rfl, fun _ => rfl⟩
    · exact ⟨rfl, fun _ => rfl⟩
    · exact encode_aluInstr hk rfl
  | true =>
    obtain ⟨rfl, rfl⟩ | ⟨rfl, rfl⟩ | ⟨rfl, rfl⟩ | ⟨k, hk, rfl, rfl⟩ := accOp_store h
    · exact ⟨rfl, fun _ => (encMov_mem hm).2⟩
    · exact ⟨rfl, fun _ => rfl⟩
    · exact ⟨Mem.isMem1_of_takes hm, fun _ => rfl⟩
    · exact encode_aluInstr hk rfl

theorem accIndG_encode {st : Bool} {op : Nat} {x : Saddr} (i : Instr)
    (h : accOp st op (.indG x) (.indG x) (.indG x) = some i) :
    i.wf = true ∧ ∀ o, encode o i = encInd st true op x := by
  cases st with
  | false =>
    obtain ⟨rfl, rfl⟩ | ⟨rfl, rfl⟩ | ⟨rfl, rfl⟩ | ⟨rfl, rfl⟩ | ⟨rfl, rfl⟩ | ⟨k, hk, rfl, rfl⟩ := accOp_load h
    case inr.inr.inr.inr.inr => exact encode_aluInstr hk rfl
    all_goals exact ⟨rfl, fun _ => rfl⟩
  | true =>
    obtain ⟨rfl, rfl⟩ | ⟨rfl, rfl⟩ | ⟨rfl, rfl⟩ | ⟨k, hk, rfl, rfl⟩ := accOp_store h
    case inr.inr.inr => exact encode_aluInstr hk rfl
    all_goals exact ⟨rfl, fun _ => rfl⟩

theorem accIndP_encode {st : Bool} {op : Nat} {x : Saddr} (hop : ¬ (op = 0 ∨ op = 2 ∨ op = 4)) (i : Instr)
    (h : accOp st op (.indP x) (.indP x) (.indG x) = some i) :
    i.wf = true ∧ ∀ o, encode o i = encInd st false op x := by
  cases st with
  | false =>
    obtain ⟨rfl, rfl⟩ | ⟨rfl, rfl⟩ | ⟨rfl, rfl⟩ | ⟨rfl, rfl⟩ | ⟨rfl, rfl⟩ | ⟨k, hk, rfl, rfl⟩ := accOp_load h
    case inr.inr.inr.inr.inr => exact encode_aluInstr hk rfl
    case inr.inl | inr.inr.inr.inr.inl => exact ⟨rfl, fun _ => rfl⟩
    all_goals exact absurd (by decide) hop
  | true =>
    obtain ⟨rfl, rfl⟩ | ⟨rfl, rfl⟩ | ⟨rfl, rfl⟩ | ⟨k, hk, rfl, rfl⟩ := accOp_store h
    case inr.inr.inr => exact encode_aluInstr hk rfl
    case inr.inl => exact ⟨rfl, fun _ => rfl⟩
    all_goals exact absurd (by decide) hop

/-- XCHW AX and the eight A operations on an absolute address (R185). -/
theorem accAbs16_encode {st : Bool} {op : Nat} {a : Word} {l : Long} (hop : 8 ≤ op ∨ op = 5 ∧ st = false) (i : Instr)
    (h : accOp st op (.abs16 a) (.abs16 a) (.abs24 l) = some i) :
    i.wf = true ∧ ∀ o, encode o i = [0x0A#8, nib ((if st then 8 else 0) + 4) op] ++ le16 a := by
  cases st with
  | false =>
    obtain ⟨rfl, rfl⟩ | ⟨rfl, rfl⟩ | ⟨rfl, rfl⟩ | ⟨rfl, rfl⟩ | ⟨rfl, rfl⟩ | ⟨k, hk, rfl, rfl⟩ := accOp_load h
    case inr.inr.inr.inr.inr => exact encode_aluInstr hk rfl
    case inr.inr.inr.inr.inl => exact ⟨rfl, fun _ => rfl⟩
    all_goals exact absurd hop (by decide)
  | true =>
    obtain ⟨rfl, rfl⟩ | ⟨rfl, rfl⟩ | ⟨rfl, rfl⟩ | ⟨k, hk, rfl, rfl⟩ := accOp_store h
    case inr.inr.inr => exact encode_aluInstr hk rfl
    all_goals exact absurd hop (by decide)

theorem accAbs24_encode {st : Bool} {op : Nat} {a : Long} (hop : 8 ≤ op ∨ op = 5 ∧ st = false) (i : Instr)
    (h : accOp st op (.abs24 a) (.abs24 a) (.abs24 a) = some i) :
    i.wf = true ∧ ∀ o, encode o i = [0x0A#8, nib ((if st then 8 else 0) + 5) op] ++ hw24 a := by
  cases st with
  | false =>
    obtain ⟨rfl, rfl⟩ | ⟨rfl, rfl⟩ | ⟨rfl, rfl⟩ | ⟨rfl, rfl⟩ | ⟨rfl, rfl⟩ | ⟨k, hk, rfl, rfl⟩ := accOp_load h
    case inr.inr.inr.inr.inr => exact encode_aluInstr hk rfl
    case inr.inr.inr.inr.inl => exact ⟨rfl, fun _ => rfl⟩
    all_goals exact absurd hop (by decide)
  | true =>
    obtain ⟨rfl, rfl⟩ | ⟨rfl, rfl⟩ | ⟨rfl, rfl⟩ | ⟨k, hk, rfl, rfl⟩ := accOp_store h
    case inr.inr.inr => exact encode_aluInstr hk rfl
    all_goals exact absurd hop (by decide)

/-! ## The fields a byte is read from -/

/-- A byte as its two nibbles. -/
theorem byteOf_eq_nib {n h l : Nat} (hn : n = 16 * h + l) : byteOf n = nib h l := congrArg byteOf hn

/-- `oooo 0bbb` and `oooo 1bbb`: a bit operation, the choice of operand, the bit number. -/
theorem byteOf_bit0 {n : Nat} (h : n / 8 % 2 = 0) : byteOf n = nib (n / 16) (bitNum n).val :=
  byteOf_eq_nib (by simp only [bitNum]; omega)

theorem byteOf_bit1 {n : Nat} (h : n / 8 % 2 ≠ 0) : byteOf n = nib (n / 16) (8 + (bitNum n).val) :=
  byteOf_eq_nib (by simp only [bitNum]; omega)

theorem byteOf_nibbles (n : Nat) : byteOf n = nib (n / 16) (n % 16) := byteOf_eq_nib (by omega)

theorem byteOf_odd8 {n q : Nat} (h : n / 8 = 2 * q + 1) : byteOf n = nib q (8 + n % 8) := byteOf_eq_nib (by omega)

theorem byteOf_even8 {n q : Nat} (h : n / 8 = 2 * q) : byteOf n = nib q (n % 8) := byteOf_eq_nib (by omega)

theorem R8.num_ofNum {n : Nat} (h : n < 16) : (R8.ofNum n).num = n := by
  cases n, h using belowSixteen <;> rfl

theorem RP.num_ofNum {n : Nat} (h : n < 8) : (RP.ofNum n).num = n := by
  cases n, h using belowEight <;> rfl

theorem RG.num_ofNum {n : Nat} (h : n < 4) : (RG.ofNum n).num = n := by
  cases n, h using belowFour <;> rfl

theorem R3.num_ofNum {n : Nat} (h : n < 4) : (R3.ofNum n).num = n := by
  cases n, h using belowFour <;> rfl

theorem RP.ppp_ofPpp (n : Nat) : (RP.ofPpp n).ppp = n % 8 := by
  have hlow : (n / 2 % 4 + 4 * (n % 2)) % 4 = n / 2 % 4 := by omega
  have hhigh : (n / 2 % 4 + 4 * (n % 2)) / 4 = n % 2 := by omega
  rw [RP.ppp, RP.ofPpp, RP.num_ofNum (by omega), hlow, hhigh]
  omega

theorem num_regOf (p : Bool) (n : Nat) : (regOf p n).num = n % 8 + if p then 8 else 0 :=
  R8.num_ofNum (by split <;> omega)

theorem num_regOf_mod (p : Bool) (n : Nat) : (regOf p n).num % 8 = n % 8 := by
  rw [num_regOf]
  split <;> omega

theorem pre_regOf (p : Bool) (n : Nat) : (regOf p n).pre = pre3C p := by
  rw [R8.pre_eq, num_regOf]
  congr 1
  cases p <;> simp
  omega

theorem pre_saddrOf (p : Bool) (o : Byte) : (saddrOf p o).pre = pre3C p := by cases p <;> rfl

theorem off_saddrOf (p : Bool) (o : Byte) : (saddrOf p o).off = o := by cases p <;> rfl

section

variable {n : Nat} (hn : n < 256)
include hn

/-- `rrrr 0zzz`: an 8-bit register and three bits. -/
theorem byteOf_r8 (h : n / 8 % 2 = 0) : byteOf n = nib (R8.ofNum (n / 16)).num (n % 8) :=
  byteOf_eq_nib (by rw [R8.num_ofNum (by omega)]; omega)

/-- `PPP0 1zzz`: a pair and three bits. -/
theorem byteOf_rp (h : n / 8 % 2 ≠ 0) (h' : n / 16 % 2 = 0) : byteOf n = ppp01 (RP.ofNum (n / 32)) (n % 8) :=
  congrArg byteOf (by rw [RP.num_ofNum (by omega)]; omega)

/-- `1GG1 1zzz`: a 24-bit register and three bits. -/
theorem byteOf_rg (h : n / 8 % 2 ≠ 0) (h' : n / 16 % 2 ≠ 0) (h128 : 128 ≤ n) :
    byteOf n = gg11 (RG.ofNum (n / 32 % 4)) (n % 8) :=
  congrArg byteOf (by rw [RG.num_ofNum (by omega)]; omega)

/-- The mode byte: the bit d, the mode field, the operation nibble. -/
theorem byteOf_mode : byteOf n = nib ((if decide (128 ≤ n) then 8 else 0) + n / 16 % 8) (n % 16) :=
  byteOf_eq_nib (by
    simp only [decide_eq_true_eq]
    split <;> omega)

end

end Sys2Proof
end

section
/-! Each table of the decoder answers faithfully (O2; 30_encoding R185 to R195), from the tables of a second byte to the
rows of the first. -/

namespace Sys2Proof

/-! ## The tables of the memory operand -/

section

variable {n : Nat} (hn : n < 256) (bs : List Byte)
include hn

theorem decRInd_faithful : Faithful [0x16#8, byteOf n] bs (decRInd n bs) := by
  have hnum {m : Nat} (hm : m < 8) : (RInd.ofNum m).num = m := by cases m, hm using belowEight <;> rfl
  have hm := hnum (m := n / 16 % 8) (by omega)
  refine .ite (fun _ => .unassigned) fun h0 => .ite (fun _ => .unassigned) fun h2 => .assigned fun i hi => ?_
  rw [byteOf_mode hn, ← hm]
  exact accMem_encode (m := .rind _) ⟨by rwa [hm], by rwa [hm]⟩ i hi

theorem decBased_faithful : Faithful [0x06#8, byteOf n] bs (decBased n bs) := by
  have hnum {m : Nat} {r : BasedReg} (hr : BasedReg.ofNum m = some r) : r.num = m := by
    unfold BasedReg.ofNum at hr
    split at hr <;> cases hr <;> rfl
  unfold decBased
  split
  case h_1 => exact .unassigned
  case h_2 r hr =>
    split
    case h_1 => exact .unassigned
    case h_2 =>
      refine .need1 fun off bs => .assigned fun i hi => ?_
      rw [byteOf_mode hn, ← hnum hr]
      exact accMem_encode (m := .based r off) trivial i hi

theorem decBIdx_faithful : Faithful [0x17#8, byteOf n] bs (decBIdx n bs) := by
  have hnum {m : Nat} (hm : m < 8) : (BIdx.ofNum m).num = m := by cases m, hm using belowEight <;> rfl
  refine .assigned fun i hi => ?_
  rw [byteOf_mode hn, ← hnum (m := n / 16 % 8) (by omega)]
  exact accMem_encode (m := .bidx _) trivial i hi

theorem decIndexed_faithful : Faithful [0x0A#8, byteOf n] bs (decIndexed n bs) := by
  have hnum {m : Nat} (hm : m < 4) : (IdxReg.ofNum m).num = m := by cases m, hm using belowFour <;> rfl
  refine .ite (fun hm => ?_) fun _ => .ite (fun hop => .ite (fun h4 => ?_) fun _ => .ite (fun h5 => ?_) fun _ =>
    .unassigned) fun _ => .unassigned
  · split
    case h_1 => exact .unassigned
    case h_2 =>
      refine .need3 fun base bs => .assigned fun i hi => ?_
      rw [byteOf_mode hn, ← hnum hm]
      exact accMem_encode (m := .indexed _ base) trivial i hi
  · refine .need2 fun a bs => .assigned fun i hi => ?_
    rw [byteOf_mode hn, h4]
    exact accAbs16_encode hop i hi
  · refine .need3w fun a bs => .assigned fun i hi => ?_
    rw [byteOf_mode hn, h5]
    exact accAbs24_encode hop i hi

/-! ## The tables of registers and operand bytes (R190 to R193) -/

theorem dec01_faithful : Faithful [0x01#8, byteOf n] bs (dec01 n bs) := by
  refine .ite (fun h => ?_) fun _ => .ite (fun h => ?_) fun _ => .ite (fun h => ?_) fun _ => .ite (fun h => ?_) fun _ =>
    .unassigned
  case refine_1 =>
    refine .need1 fun o bs => .need1 fun b bs => .alu8 (by omega) rfl ?_
    rw [byteOf_eq_nib (h := 6) (l := 8 + n % 8) (by omega)]
    rfl
  all_goals
    subst h
    exact .need1 fun o bs => .need2 fun w bs => .ok rfl fun _ => rfl

theorem dec38_faithful : Faithful [0x38#8, byteOf n] bs (dec38 n bs) := by
  have hfield : n % 8 = 4 * (n / 4 % 2) + n % 4 := by omega
  have hst : n / 4 % 2 < 2 := Nat.mod_lt _ (by decide)
  have hcc : n % 4 < 4 := Nat.mod_lt _ (by decide)
  have hz : n % 8 < 8 := Nat.mod_lt _ (by decide)
  refine .ite (fun h => ?_) fun h => .ite (fun h' => ?_) fun h' => .ite (fun h128 => ?_) fun _ => .unassigned
  · rw [byteOf_r8 hn h, hfield]
    generalize n % 4 = cc at hcc ⊢
    generalize n / 4 % 2 = st at hst ⊢
    match cc, hcc with
    | 3, _ => exact .unassigned
    | 0, _ | 1, _ | 2, _ => cases st, hst using belowTwo <;> exact .need1 fun off bs => .ok rfl fun _ => rfl
    | _ + 4, h => omega
  · rw [byteOf_rp hn h h', hfield]
    generalize n % 4 = cc at hcc ⊢
    generalize n / 4 % 2 = st at hst ⊢
    match cc, hcc with
    | 3, _ => exact .unassigned
    | 0, _ | 1, _ | 2, _ => cases st, hst using belowTwo <;> exact .need1 fun off bs => .ok rfl fun _ => rfl
    | _ + 4, h => omega
  · rw [byteOf_rg hn h h' h128]
    generalize n % 8 = z at hz ⊢
    match z, hz with
    | 2, _ | 6, _ | 7, _ => exact .unassigned
    | 3, _ => exact .need3 fun l bs => .ok rfl fun _ => rfl
    | 0, _ | 1, _ | 4, _ | 5, _ => exact .need1 fun off bs => .ok rfl fun _ => rfl
    | _ + 8, h => omega

theorem dec39_faithful : Faithful [0x39#8, byteOf n] bs (dec39 n bs) := by
  have hcc : n % 4 < 4 := Nat.mod_lt _ (by decide)
  refine .ite (fun _ => .unassigned) fun hfield => ?_
  rw [not_or] at hfield
  have hlow : n % 8 = n % 4 := by omega
  refine .ite (fun h => ?_) fun h => .ite (fun h' => ?_) fun _ => .unassigned
  · rw [byteOf_r8 hn h, hlow]
    generalize n % 4 = cc at hcc hfield ⊢
    match cc, hcc, hfield with
    | 3, _, hfield => exact absurd rfl hfield.2
    | 0, _, _ | 1, _, _ | 2, _, _ => exact .need1 fun off bs => .ok rfl fun _ => rfl
    | _ + 4, h, _ => omega
  · rw [byteOf_rp hn h h', hlow]
    generalize n % 4 = cc at hcc hfield ⊢
    match cc, hcc, hfield with
    | 3, _, hfield => exact absurd rfl hfield.2
    | 0, _, _ | 1, _, _ | 2, _, _ => exact .need1 fun off bs => .ok rfl fun _ => rfl
    | _ + 4, h, _ => omega

theorem dec3E_faithful : Faithful [0x3E#8, byteOf n] bs (dec3E n bs) := by
  have hz : n % 8 < 8 := Nat.mod_lt _ (by decide)
  refine .ite (fun h => ?_) fun h => .ite (fun h' => ?_) fun h' => .ite (fun h128 => ?_) fun _ => .unassigned
  · rw [byteOf_r8 hn h]
    generalize n % 8 = z at hz ⊢
    match z, hz with
    | 0, _ | 1, _ | 4, _ => exact .need2 fun a bs => .ok rfl fun _ => rfl
    | 2, _ | 3, _ | 6, _ => exact .need3w fun a bs => .ok rfl fun _ => rfl
    | 5, _ | 7, _ => exact .unassigned
    | _ + 8, h => omega
  · have hpair := RP.num_ofNum (n := n / 32) (by omega)
    rw [byteOf_rp hn h h']
    generalize n % 8 = z at hz ⊢
    match z, hz with
    | 0, _ | 1, _ => exact .need2 fun a bs => .ok rfl fun _ => rfl
    | 2, _ | 3, _ => exact .need3w fun a bs => .ok rfl fun _ => rfl
    | 5, _ | 7, _ => exact .ite (fun hlow => .ok rfl fun _ => if_pos (by omega)) fun _ => .unassigned
    | 4, _ | 6, _ => exact .unassigned
    | _ + 8, h => omega
  · rw [byteOf_rg hn h h' h128]
    generalize n % 8 = z at hz ⊢
    match z, hz with
    | 2, _ | 3, _ => exact .need3w fun a bs => .ok rfl fun _ => rfl
    | 5, _ | 7, _ => exact .ok rfl fun _ => rfl
    | 0, _ | 1, _ | 4, _ | 6, _ => exact .unassigned
    | _ + 8, h => omega

theorem dec78_faithful {k : Nat} (hk : k < 8) : Faithful [nib 7 (8 + k), byteOf n] bs (dec78 k n bs) := by
  have hfield : n % 8 = 4 * (n / 4 % 2) + n % 4 := by omega
  have hst : n / 4 % 2 < 2 := Nat.mod_lt _ (by decide)
  have hcc : n % 4 < 4 := Nat.mod_lt _ (by decide)
  refine .ite (fun h => ?_) fun h => .ite (fun h' => .ite (fun _ => ?_) fun _ => .unassigned) fun h' =>
    .ite (fun hlong => ?_) fun _ => .unassigned
  · rw [byteOf_r8 hn h, hfield]
    generalize n % 4 = cc at hcc ⊢
    generalize n / 4 % 2 = st at hst ⊢
    match cc, hcc with
    | 3, _ =>
      cases st, hst using belowTwo
      · exact .need1 fun b bs => .alu8 hk rfl rfl
      · exact .unassigned
    | 0, _ | 1, _ | 2, _ => cases st, hst using belowTwo <;> exact .need1 fun off bs => .alu8 hk rfl rfl
    | _ + 4, h => omega
  · rw [byteOf_rp hn h h', hfield]
    generalize n % 4 = cc at hcc ⊢
    generalize n / 4 % 2 = st at hst ⊢
    match cc, hcc with
    | 3, _ =>
      cases st, hst using belowTwo
      · exact .need2 fun w bs => .alu16 (d := .rp _) (s := .imm w) rfl fun _ _ => rfl
      · exact .unassigned
    | 0, _ | 1, _ | 2, _ => cases st, hst using belowTwo <;> exact .need1 fun off bs => .alu16 rfl fun _ _ => rfl
    | _ + 4, h => omega
  · refine .ite (fun h3 => ?_) fun _ => .ite (fun hs2 => ?_) fun _ => .ite (fun hs1 => ?_) fun _ => .unassigned
    · rw [byteOf_rg hn h h' hlong.2, h3]
      exact .need3 fun l bs => .alu24 rfl rfl
    · subst hs2
      exact .need1 fun off bs => .alu24 rfl rfl
    · subst hs1
      exact .need1 fun off bs => .alu24 rfl rfl

/-! ## The tables of two registers (R192) and of shifts (R193) -/

/-- `rrrr 0rrr`: the second register's high bit is the byte 3CH (R172). -/
theorem byteOf_r8_r8 (p : Bool) (h : n / 8 % 2 = 0) :
    byteOf n = nib (R8.ofNum (n / 16)).num ((regOf p n).num % 8) := by
  rw [num_regOf_mod, byteOf_r8 hn h]

theorem byteOf_rp_rp (h : n / 8 % 2 ≠ 0) (h' : n / 16 % 2 = 0) :
    byteOf n = ppp01 (RP.ofNum (n / 32)) (RP.ofPpp (n % 8)).ppp := by
  rw [RP.ppp_ofPpp, Nat.mod_mod, byteOf_rp hn h h']

theorem byteOf_rg_rg (h : n / 8 % 2 ≠ 0) (h' : n / 16 % 2 ≠ 0) (hodd : 128 ≤ n ∧ n % 2 = 1) :
    byteOf n = gg11 (RG.ofNum (n / 32 % 4)) (1 + 2 * (RG.ofNum (n / 2 % 4)).num) := by
  rw [RG.num_ofNum (n := n / 2 % 4) (by omega), byteOf_rg hn h h' hodd.1, show n % 8 = 1 + 2 * (n / 2 % 4) by omega]

theorem dec24_faithful (p : Bool) : Faithful (pre3C p ++ [0x24#8, byteOf n]) bs (dec24 p n bs) := by
  refine .ite (fun h => ?_) fun h =>
    .noPrefix (.ite (fun h' => ?_) fun h' => .ite (fun hodd => ?_) fun _ => .unassigned)
  · rw [byteOf_r8_r8 hn p h, ← pre_regOf p n]
    exact .ok rfl fun _ => rfl
  · rw [byteOf_rp_rp hn h h']
    exact .ok rfl fun _ => rfl
  · rw [byteOf_rg_rg hn h h' hodd]
    exact .ok rfl fun _ => rfl

theorem dec25_faithful (p : Bool) : Faithful (pre3C p ++ [0x25#8, byteOf n]) bs (dec25 p n bs) := by
  refine .ite (fun h => ?_) fun h => .noPrefix (.ite (fun h' => ?_) fun _ => .unassigned)
  · rw [byteOf_r8_r8 hn p h, ← pre_regOf p n]
    exact .ok rfl fun _ => rfl
  · rw [byteOf_rp_rp hn h h']
    exact .ok rfl fun _ => rfl

theorem dec88_faithful {k : Nat} (hk : k < 8) (p : Bool) :
    Faithful (pre3C p ++ [nib 8 (8 + k), byteOf n]) bs (dec88 p k n bs) := by
  refine .ite (fun h => ?_) fun h =>
    .noPrefix (.ite (fun h' => ?_) fun h' => .ite (fun hodd => ?_) fun _ => .unassigned)
  · rw [byteOf_r8_r8 hn p h, ← pre_regOf p n]
    exact .alu8 hk rfl rfl
  · rw [byteOf_rp_rp hn h h']
    exact .alu16 rfl fun _ _ => rfl
  · rw [byteOf_rg_rg hn h h' hodd]
    exact .alu24 rfl rfl

theorem decShift_faithful (p left : Bool) :
    Faithful (pre3C p ++ [if left then 0x31#8 else 0x30#8, byteOf n]) bs (decShift p left n bs) := by
  have hreg : byteOf n = byteOf (64 * (n / 64) + 8 * (bitNum (n / 8)).val + (regOf p n).num % 8) := by
    rw [num_regOf_mod]
    exact congrArg byteOf (by simp only [bitNum]; omega)
  have hpair : byteOf n = byteOf (64 * (n / 64) + 8 * (bitNum (n / 8)).val + (RP.ofPpp (n % 8)).ppp) := by
    rw [RP.ppp_ofPpp]
    exact congrArg byteOf (by simp only [bitNum]; omega)
  have hkind : n / 64 < 4 := by omega
  unfold decShift
  dsimp only
  generalize n / 64 = kind at hreg hpair hkind ⊢
  match kind, hkind with
  | 3, _ =>
    rw [hpair]
    cases left <;> exact .noPrefix (.ok rfl fun _ => rfl)
  | 0, _ | 1, _ | 2, _ =>
    rw [hreg, ← pre_regOf p n]
    cases left <;> exact .ok rfl fun _ => rfl
  | _ + 4, h => omega

end

section

variable {n : Nat} (bs : List Byte)

/-! ## The tables of bit operations (R189) -/

theorem decBits_faithful {b1 : Byte} {x0 x1 : BitLoc} (h0 : ∀ op b, encBit op x0 b = [b1, nib op b.val])
    (h1 : ∀ op b, encBit op x1 b = [b1, nib op (8 + b.val)]) : Faithful [b1, byteOf n] bs (decBits x0 x1 n bs) := by
  refine .bitOp fun _ => ?_
  split
  case isTrue h => rw [byteOf_bit0 h, h0]
  case isFalse h => rw [byteOf_bit1 h, h1]

theorem decBits08_faithful (p : Bool) :
    Faithful (pre3C p ++ [0x08#8, byteOf n]) bs (decBits08 p n bs) := by
  refine .ite (fun _ => .unassigned) fun _ => .ite (fun h => .ite (fun _ => .unassigned) fun hrow => ?_) fun h => ?_
  · refine .need1 fun off bs => .bitOp fun _ => ?_
    rw [byteOf_bit0 h, encBit]
    simp only [pre_saddrOf, off_saddrOf]
    rw [if_neg (by omega), if_neg (by omega), if_neg (by omega), List.append_assoc]
    rfl
  · refine .noPrefix (.need1 fun off bs => .bitOp fun _ => ?_)
    rw [byteOf_bit1 h]
    rfl

theorem decBitsAbs_faithful : Faithful [0x09#8, 0xD0#8, byteOf n] bs (decBitsAbs n bs) := by
  refine .ite (fun _ => .unassigned) fun _ => .ite (fun h => ?_) fun h => ?_
  · rw [byteOf_bit0 h]
    exact .need2 fun a bs => .bitOp fun _ => rfl
  · rw [byteOf_bit1 h]
    exact .need3w fun a bs => .bitOp fun _ => rfl

/-! ## Strings (R193) and pairs of short direct operands (R190) -/

theorem enc2A_saddr2 {ss : Nat} (hss : ss < 4) (w op : Nat) (src dst : Byte) :
    enc2A w op (saddr2 ss src dst).1 (saddr2 ss src dst).2 = [0x2A#8, nib (w + ss) op, src, dst] := by
  cases ss, hss using belowFour <;> rfl

theorem dec15_faithful : Faithful [0x15#8, byteOf n] bs (dec15 n bs) := by
  unfold dec15
  dsimp only
  split
  case isTrue => exact .unassigned
  case isFalse hrow =>
    have hbyte : [0x15#8, byteOf n] = encString (n / 32) (n % 8) (if n / 16 % 2 = 0 then .inc else .dec) := by
      split
      case isTrue h => rw [byteOf_eq_nib (h := 2 * (n / 32) + 0) (l := n % 8) (by omega)]; rfl
      case isFalse h => rw [byteOf_eq_nib (h := 2 * (n / 32) + 1) (l := n % 8) (by omega)]; rfl
    rw [hbyte]
    generalize n / 32 = blk, n % 8 = op, (if n / 16 % 2 = 0 then Dir.inc else .dec) = d
    split
    case h_13 => exact .unassigned
    all_goals exact .ok rfl fun _ => rfl

theorem dec2A_faithful : Faithful [0x2A#8, byteOf n] bs (dec2A n bs) := by
  have henc (w op : Nat) (src dst : Byte) := enc2A_saddr2 (ss := n / 16 % 4) (by omega) w op src dst
  have hop : n % 16 < 16 := Nat.mod_lt _ (by decide)
  unfold dec2A
  dsimp only
  split
  case h_1 h =>
    rw [byteOf_eq_nib (h := 0 + n / 16 % 4) (l := n % 16) (by omega)]
    generalize n % 16 = op at hop ⊢
    split
    case isFalse => exact .unassigned
    case isTrue hrow =>
      refine .need1 fun src bs => .need1 fun dst bs => ?_
      obtain rfl | rfl | ⟨k, rfl⟩ : op = 0 ∨ op = 4 ∨ ∃ k, op = 8 + k := by
        have hk : 8 ≤ op → op = 8 + (op - 8) := by omega
        exact hrow.imp_right (.imp_right fun h => ⟨_, hk h⟩)
      · exact .ok rfl fun _ => henc 0 0 src dst
      · exact .ok rfl fun _ => henc 0 4 src dst
      · rw [if_neg (by omega), if_neg (by omega), Nat.add_sub_cancel_left]
        exact .alu8 (by omega) rfl (henc 0 (8 + k) src dst)
  case h_2 h =>
    rw [byteOf_eq_nib (h := 8 + n / 16 % 4) (l := n % 16) (by omega)]
    generalize n % 16 = op at hop ⊢
    split
    case isFalse => exact .unassigned
    case isTrue hrow =>
      refine .need1 fun src bs => .need1 fun dst bs => ?_
      obtain rfl | rfl | rfl | rfl | rfl : op = 0 ∨ op = 4 ∨ op = 13 ∨ op = 14 ∨ op = 15 := by omega
      all_goals exact .ok rfl fun _ => henc 8 _ src dst
  case h_3 => exact .unassigned

/-! ## Group 05H (R187) -/

section

variable {q : Nat}

/-- A row with an 8-bit register in the low three bits and the byte 3CH. -/
theorem group05_r (p : Bool) {f : R8 → Instr} (hq : n / 8 = 2 * q + 1) (hwf : ∀ r, (f r).wf = true)
    (henc : ∀ o r, encode o (f r) = r.pre ++ [0x05#8, nib q (8 + r.num % 8)]) :
    Faithful (pre3C p ++ [0x05#8, byteOf n]) bs (.ok (f (regOf p (n % 8))) bs) :=
  .ok (hwf _) fun o => by rw [henc, pre_regOf, num_regOf_mod, Nat.mod_mod, byteOf_odd8 hq]

theorem group05_rp {f : RP → Instr} (hq : n / 8 = 2 * q + 1) (hwf : ∀ r, (f r).wf = true)
    (henc : ∀ o r, encode o (f r) = [0x05#8, nib q (8 + r.ppp)]) :
    Faithful [0x05#8, byteOf n] bs (.ok (f (RP.ofPpp (n % 8))) bs) :=
  .ok (hwf _) fun o => by rw [henc, RP.ppp_ofPpp, Nat.mod_mod, byteOf_odd8 hq]

theorem group05_rg {f : RG → Instr} (hq : n / 8 = 2 * q) (hwf : ∀ g, (f g).wf = true)
    (henc : ∀ o g, encode o (f g) = [0x05#8, nib q (1 + 2 * g.num)]) :
    Faithful [0x05#8, byteOf n] bs (if n % 2 = 1 then .ok (f (RG.ofNum (n / 2 % 4))) bs else .unassigned) :=
  .ite (fun hodd => .ok (hwf _) fun o => by
    rw [henc, RG.num_ofNum (by omega), byteOf_even8 hq, show n % 8 = 1 + 2 * (n / 2 % 4) by omega]) fun _ => .unassigned

theorem group05_bit {f : Fin 8 → Instr} (hq : n / 8 = 2 * q + 1) (hwf : ∀ b, (f b).wf = true)
    (henc : ∀ o b, encode o (f b) = [0x05#8, nib q (8 + b.val)]) :
    Faithful [0x05#8, byteOf n] bs (.ok (f (bitNum n)) bs) :=
  .ok (hwf _) fun o => by rw [henc, byteOf_odd8 hq]; rfl

theorem group05_mem3 {f : Mem3 → Instr} (hq : n / 8 = 2 * q + 1) (hwf : ∀ m, (f m).wf = true)
    (henc : ∀ o m, encode o (f m) = [0x05#8, nib q (8 + m.num)]) :
    Faithful [0x05#8, byteOf n] bs (.ok (f (Mem3.ofNum (n % 8))) bs) := by
  have hnum {m : Nat} (hm : m < 8) : (Mem3.ofNum m).num = m := by cases m, hm using belowEight <;> rfl
  exact .ok (hwf _) fun o => by rw [henc, hnum (by omega), byteOf_odd8 hq]

end

theorem dec05_faithful (p : Bool) : Faithful (pre3C p ++ [0x05#8, byteOf n]) bs (dec05 p n bs) := by
  have hext := R3.num_ofNum (n := n / 2 % 4) (by omega)
  unfold dec05
  dsimp only
  split
  case h_1 h => exact group05_r (q := 0) bs p h (fun _ => rfl) fun _ _ => rfl
  case h_2 h => exact group05_r (q := 1) bs p h (fun _ => rfl) fun _ _ => rfl
  case h_22 => exact .unassigned
  all_goals refine .noPrefix ?_
  case h_3 h => exact group05_rp (q := 2) bs h (fun _ => rfl) fun _ _ => rfl
  case h_4 h => exact group05_rp (q := 3) bs h (fun _ => rfl) fun _ _ => rfl
  case h_5 h => exact group05_rg (q := 4) (f := fun g => .br (.rg g)) bs h (fun _ => rfl) fun _ _ => rfl
  case h_6 h => exact group05_rp (q := 4) (f := fun n => .br (.rp n)) bs h (fun _ => rfl) fun _ _ => rfl
  case h_7 h => exact group05_rg (q := 5) (f := fun g => .call (.rg g)) bs h (fun _ => rfl) fun _ _ => rfl
  case h_8 h => exact group05_rp (q := 5) (f := fun n => .call (.rp n)) bs h (fun _ => rfl) fun _ _ => rfl
  case h_9 h => exact group05_rg (q := 6) (f := fun g => .br (.indRg g)) bs h (fun _ => rfl) fun _ _ => rfl
  case h_10 h => exact group05_rp (q := 6) (f := fun n => .br (.indRp n)) bs h (fun _ => rfl) fun _ _ => rfl
  case h_11 h => exact group05_rg (q := 7) (f := fun g => .call (.indRg g)) bs h (fun _ => rfl) fun _ _ => rfl
  case h_12 h => exact group05_rp (q := 7) (f := fun n => .call (.indRp n)) bs h (fun _ => rfl) fun _ _ => rfl
  case h_13 h => exact group05_mem3 (q := 8) bs h (fun _ => rfl) fun _ _ => rfl
  case h_14 h => exact group05_mem3 (q := 9) bs h (fun _ => rfl) fun _ _ => rfl
  case h_15 h => exact group05_bit (q := 10) bs h (fun _ => rfl) fun _ _ => rfl
  case h_16 h => exact group05_bit (q := 11) bs h (fun _ => rfl) fun _ _ => rfl
  case h_17 h =>
    refine .ite (fun hodd => ?_) fun _ => .unassigned
    rw [byteOf_eq_nib (h := 12) (l := 1 + 2 * (R3.ofNum (n / 2 % 4)).num) (by omega)]
    exact .ok rfl fun _ => rfl
  case h_18 h =>
    refine .ite (fun hodd => ?_) fun _ => .unassigned
    rw [byteOf_eq_nib (h := 12) (l := 9 + 2 * (R3.ofNum (n / 2 % 4)).num) (by omega)]
    exact .ok rfl fun _ => rfl
  case h_19 h => exact group05_bit (q := 13) bs h (fun _ => rfl) fun _ _ => rfl
  case h_20 h => exact group05_rp (q := 14) bs h (fun _ => rfl) fun _ _ => rfl
  case h_21 h =>
    have hlow : n % 8 < 8 := Nat.mod_lt _ (by decide)
    rw [byteOf_odd8 (q := 15) h]
    generalize n % 8 = lo at hlow ⊢
    match lo, hlow with
    | 5, _ => exact .unassigned
    | 0, _ | 1, _ | 2, _ | 3, _ | 4, _ | 6, _ | 7, _ => exact .ok rfl fun _ => rfl
    | _ + 8, h => omega

/-! ## Group 07H (R186) -/

theorem encInd_saddrOf (st g : Bool) (op : Nat) (p : Bool) (off : Byte) : encInd st g op (saddrOf p off) =
    pre3C p ++ [0x07#8, nib ((if st then 8 else 0) + (if g then 3 else 2)) op] ++ [off] := by
  cases p <;> rfl

theorem dec07_faithful (hn : n < 256) (p : Bool) :
    Faithful (pre3C p ++ [0x07#8, byteOf n]) bs (dec07 p n bs) := by
  have hnib {h : Nat} (hh : n / 16 = h) : byteOf n = nib h (n % 16) := hh ▸ byteOf_nibbles n
  unfold dec07
  dsimp only
  split
  case h_1 h | h_2 h =>
    refine .ite (fun _ => .unassigned) fun hop => ?_
    split
    case h_1 => exact .unassigned
    case h_2 =>
      refine .need1 fun off bs => .assigned fun i hi => ?_
      rw [byteOf_mode hn, show n / 16 % 8 = 2 by omega]
      exact (accIndP_encode hop i hi).imp_right fun henc o => (henc o).trans (encInd_saddrOf _ false _ p off)
  case h_3 h | h_4 h =>
    split
    case h_1 => exact .unassigned
    case h_2 =>
      refine .need1 fun off bs => .assigned fun i hi => ?_
      rw [byteOf_mode hn, show n / 16 % 8 = 3 by omega]
      exact (accIndG_encode i hi).imp_right fun henc o => (henc o).trans (encInd_saddrOf _ true _ p off)
  case h_5 h =>
    refine .noPrefix (.ite (fun hrow => .need1 fun b bs => ?_) fun _ => .unassigned)
    have hext := R3.num_ofNum (n := n / 2 % 4) (by omega)
    rw [byteOf_eq_nib (h := 6) (l := 1 + 2 * (R3.ofNum (n / 2 % 4)).num) (by omega)]
    exact .ok rfl fun _ => rfl
  case h_6 h | h_7 h =>
    refine .noPrefix (.ite (fun hop => ?_) fun _ => .unassigned)
    rw [hnib h, hop]
    exact .need1 fun b bs => .ok rfl fun _ => rfl
  case h_8 h =>
    rw [hnib h]
    refine .noPrefix ?_
    split
    case h_1 hop | h_2 hop => rw [hop]; exact .need1 fun o bs => .ok rfl fun _ => rfl
    case h_3 => exact .unassigned
  case h_9 h =>
    rw [hnib h]
    refine .noPrefix ?_
    split
    case h_1 hop | h_2 hop | h_3 hop | h_4 hop => rw [hop]; exact .need1 fun o bs => .ok rfl fun _ => rfl
    case h_5 => exact .unassigned
  case h_10 h =>
    rw [hnib h]
    split
    case h_1 hop | h_2 hop => rw [hop]; cases p <;> exact .need1 fun off bs => .ok rfl fun _ => rfl
    case h_3 => exact .unassigned
  case h_11 h =>
    refine .noPrefix (.ite (fun hop => .need1 fun d bs => ?_) fun _ => .unassigned)
    rw [hnib h]
    generalize n % 16 = op at hop ⊢
    obtain ⟨k, rfl⟩ : ∃ k, op = 8 + k := ⟨op - 8, by omega⟩
    rw [Nat.add_sub_cancel_left]
    unfold longBranch
    split
    case h_7 => exact .unassigned
    all_goals exact .ok rfl fun _ => rfl
  case h_12 => exact .unassigned

/-! ## Group 09H (R188) -/

theorem encTarget_abs20_append (c : Nat) (x : BitVec 4) (w : Word) :
    encTarget c (.abs20 (x ++ w)) = [0x09#8, nib (14 + c) x.toNat] ++ le16 w := by
  rw [encTarget, BitVec.extractLsb'_append_eq_left, BitVec.extractLsb'_append_eq_right]

theorem dec09_faithful : Faithful [0x09#8, byteOf n] bs (dec09 n bs) := by
  have hnib {h : Nat} (hh : n / 16 = h) : byteOf n = nib h (n % 16) := hh ▸ byteOf_nibbles n
  have hrg {h : Nat} (hh : n / 16 = h) (hrow : n % 2 = 1 ∧ 8 ≤ n % 16) :
      byteOf n = nib h (9 + 2 * (RG.ofNum (n / 2 % 4)).num) := by
    rw [RG.num_ofNum (n := n / 2 % 4) (by omega), hnib hh, show n % 16 = 9 + 2 * (n / 2 % 4) by omega]
  unfold dec09
  split
  case h_1 h =>
    rw [hnib h]
    split
    case h_1 hop => rw [hop]; exact .need3 fun l bs => .ok rfl fun _ => rfl
    case h_2 hop | h_3 hop => rw [hop]; exact .need2 fun w bs => .ok rfl fun _ => rfl
    case h_4 => exact .unassigned
  case h_2 h =>
    rw [hnib h]
    split
    case h_1 hop => rw [hop]; exact .need2 fun a bs => .need1 fun b bs => .ok rfl fun _ => rfl
    case h_2 hop => rw [hop]; exact .need2 fun a bs => .need2 fun w bs => .ok rfl fun _ => rfl
    case h_3 => exact .unassigned
  case h_3 h =>
    rw [hnib h]
    split
    case h_1 hop => rw [hop]; exact .need3w fun a bs => .need1 fun b bs => .ok rfl fun _ => rfl
    case h_2 hop => rw [hop]; exact .need3w fun a bs => .need2 fun w bs => .ok rfl fun _ => rfl
    case h_3 => exact .unassigned
  case h_4 h =>
    refine .ite (fun hn => ?_) fun _ => .unassigned
    subst hn
    refine .need1 fun b3 bs => .need1 fun b4 bs => .ite (fun hb => ?_) fun _ => .unassigned
    obtain ⟨rfl, rfl⟩ := hb
    exact .ok rfl fun _ => rfl
  case h_5 h | h_6 h =>
    refine .ite (fun hrow => ?_) fun _ => .unassigned
    rw [hrg h hrow]
    exact .ok rfl fun _ => rfl
  case h_7 =>
    refine .ite (fun hn => ?_) fun _ => .unassigned
    subst hn
    exact .need1 fun a bs => .need1 fun c bs => .ok rfl fun _ => rfl
  case h_8 =>
    refine .ite (fun hn => ?_) fun _ => .unassigned
    subst hn
    exact .need2 fun w bs => .ok rfl fun _ => rfl
  case h_9 =>
    refine .ite (fun hn => ?_) fun _ => .unassigned
    subst hn
    exact .needField fun n _ bs => decBitsAbs_faithful bs
  case h_10 h =>
    refine .need2 fun w bs => .ok rfl fun _ => (encTarget_abs20_append 0 _ w).trans ?_
    rw [hnib h, BitVec.toNat_ofNat]
  case h_11 h =>
    refine .need2 fun w bs => .ok rfl fun _ => (encTarget_abs20_append 1 _ w).trans ?_
    rw [hnib h, BitVec.toNat_ofNat]
  case h_12 => exact .unassigned

end

/-! ## The rows of the first byte (R183, R184) -/

/-- MOV with an sfr operand, PSWL and PSWH among them (R194). -/
theorem encMov_movSfr (o : Byte) :
    (movForm .a (movSfr o) = true ∧ encMov .a (movSfr o) = [0x10#8, o]) ∧
    (movForm (movSfr o) .a = true ∧ encMov (movSfr o) .a = [0x12#8, o]) ∧
    ∀ b, movForm (movSfr o) (.imm b) = true ∧ encMov (movSfr o) (.imm b) = [0x2B#8, o, b] := by
  unfold movSfr
  split
  case isTrue h => subst h; exact ⟨⟨rfl, rfl⟩, ⟨rfl, rfl⟩, fun _ => ⟨rfl, rfl⟩⟩
  split
  case isFalse.isTrue h => subst h; exact ⟨⟨rfl, rfl⟩, ⟨rfl, rfl⟩, fun _ => ⟨rfl, rfl⟩⟩
  case isFalse.isFalse hl hh =>
    have hform : sfrNotPsw o = true := by rw [sfrNotPsw, bne_iff_ne.mpr hl, bne_iff_ne.mpr hh, Bool.and_self]
    exact ⟨⟨hform, rfl⟩, ⟨hform, rfl⟩, fun _ => ⟨hform, rfl⟩⟩

section

variable {l : Nat} (hl : l < 16) (bs : List Byte)
include hl

theorem decRow0_faithful (p : Bool) : Faithful (pre3C p ++ [nib 0 l]) bs (decRow0 p l bs) := by
  match l, hl with
  | 0, _ => exact .noPrefix (.ok rfl fun _ => rfl)
  | 1, _ => exact .noPrefix (.needField fun n hn bs => dec01_faithful hn bs)
  | 2, _ => exact .noPrefix (.needField fun n hn bs => decBits_faithful bs (fun _ _ => rfl) fun _ _ => rfl)
  | 3, _ => exact .noPrefix (.needField fun n hn bs => decBits_faithful bs (fun _ _ => rfl) fun _ _ => rfl)
  | 4, _ => exact .noPrefix (.ok rfl fun _ => rfl)
  | 5, _ => cases p <;> exact .needField fun n hn bs => dec05_faithful bs _
  | 6, _ => exact .noPrefix (.needField fun n hn bs => decBased_faithful hn bs)
  | 7, _ => cases p <;> exact .needField fun n hn bs => dec07_faithful bs hn _
  | 8, _ => cases p <;> exact .needField fun n hn bs => decBits08_faithful bs _
  | 9, _ => exact .noPrefix (.needField fun n hn bs => dec09_faithful bs)
  | 10, _ => exact .noPrefix (.needField fun n hn bs => decIndexed_faithful hn bs)
  | 11, _ => exact .noPrefix (.need1 fun o bs => .need2 fun w bs => .ok rfl fun _ => rfl)
  | 12, _ | 13, _ | 14, _ | 15, _ => cases p <;> exact .need1 fun o bs => .need2 fun w bs => .ok rfl fun _ => rfl
  | _ + 16, h => omega

theorem decRow1_faithful (p : Bool) : Faithful (pre3C p ++ [nib 1 l]) bs (decRow1 p l bs) := by
  match l, hl with
  | 0, _ =>
    refine .noPrefix (.need1 fun o bs => ?_)
    obtain ⟨⟨hform, henc⟩, -⟩ := encMov_movSfr o
    exact .ok hform fun _ => henc
  | 2, _ =>
    refine .noPrefix (.need1 fun o bs => ?_)
    obtain ⟨-, ⟨hform, henc⟩, -⟩ := encMov_movSfr o
    exact .ok hform fun _ => henc
  | 5, _ => exact .noPrefix (.needField fun n hn bs => dec15_faithful bs)
  | 6, _ => exact .noPrefix (.needField fun n hn bs => decRInd_faithful hn bs)
  | 7, _ => exact .noPrefix (.needField fun n hn bs => decBIdx_faithful hn bs)
  | 8, _ | 9, _ => cases p <;> exact .need1 fun o bs => .ok rfl fun _ => rfl
  | 1, _ | 3, _ | 4, _ | 10, _ | 11, _ | 12, _ | 13, _ | 14, _ | 15, _ =>
    exact .noPrefix (.need1 fun o bs => .ok rfl fun _ => rfl)
  | _ + 16, h => omega

theorem decRow2_faithful (p : Bool) : Faithful (pre3C p ++ [nib 2 l]) bs (decRow2 p l bs) := by
  match l, hl with
  | 0, _ | 1, _ | 2, _ => exact .noPrefix (.need1 fun o bs => .ok rfl fun _ => rfl)
  | 3, _ | 6, _ | 7, _ => cases p <;> exact .need1 fun o bs => .ok rfl fun _ => rfl
  | 4, _ => cases p <;> exact .needField fun n hn bs => dec24_faithful hn bs _
  | 5, _ => cases p <;> exact .needField fun n hn bs => dec25_faithful hn bs _
  | 10, _ => exact .noPrefix (.needField fun n hn bs => dec2A_faithful bs)
  | 11, _ =>
    refine .noPrefix (.need1 fun o bs => .need1 fun b bs => ?_)
    obtain ⟨-, -, hmov⟩ := encMov_movSfr o
    exact .ok (hmov b).1 fun _ => (hmov b).2
  | 8, _ | 9, _ | 12, _ | 13, _ | 14, _ | 15, _ => exact .noPrefix (.need2 fun w bs => .ok rfl fun _ => rfl)
  | _ + 16, h => omega

theorem decRow3_faithful (p : Bool) : Faithful (pre3C p ++ [nib 3 l]) bs (decRow3 p l bs) := by
  match l, hl with
  | 0, _ => cases p <;> exact .needField fun n hn bs => decShift_faithful hn bs _ false
  | 1, _ => cases p <;> exact .needField fun n hn bs => decShift_faithful hn bs _ true
  | 8, _ => exact .noPrefix (.needField fun n hn bs => dec38_faithful hn bs)
  | 9, _ => exact .noPrefix (.needField fun n hn bs => dec39_faithful hn bs)
  | 10, _ | 11, _ => cases p <;> exact .need1 fun o bs => .need1 fun b bs => .ok rfl fun _ => rfl
  | 12, _ => exact .unassigned
  | 13, _ => exact .noPrefix (.needField fun n hn bs => decBits_faithful bs (fun _ _ => rfl) fun _ _ => rfl)
  | 14, _ => exact .noPrefix (.needField fun n hn bs => dec3E_faithful hn bs)
  | 15, _ => exact .noPrefix (.need2 fun w bs => .ok rfl fun _ => rfl)
  | 2, _ | 3, _ | 4, _ | 5, _ | 6, _ | 7, _ => exact .noPrefix (.need1 fun b bs => .ok rfl fun _ => rfl)
  | _ + 16, h => omega

theorem decRow4_faithful : Faithful [nib 4 l] bs (decRow4 l bs) := by
  match l, hl with
  | 3, _ => exact .need2 (k := fun w bs => .ok (.br (.rel16 w)) bs) fun w bs => .ok rfl fun _ => rfl
  | 0, _ | 1, _ | 2, _ | 4, _ | 5, _ | 6, _ | 7, _ | 8, _ | 9, _ | 10, _ | 11, _ | 12, _ | 13, _ | 14, _ |
    15, _ => exact .ok rfl fun _ => rfl
  | _ + 16, h => omega

theorem decRow5_faithful : Faithful [nib 5 l] bs (decRow5 l bs) := by
  cases l, hl using belowSixteen <;> exact .ok rfl fun _ => rfl

end

theorem encode_callf_append (o : Opcodes) (x : BitVec 3) (b : Byte) :
    encode o (.callf (x ++ b)) = [nib 9 x.toNat, b] := by
  rw [encode, BitVec.extractLsb'_append_eq_left, BitVec.extractLsb'_append_eq_right]

theorem decodeOp_faithful (p : Bool) {n : Nat} (hn : n < 256) (bs : List Byte) :
    Faithful (pre3C p ++ [byteOf n]) bs (decodeOp p n bs) := by
  have hl : n % 16 < 16 := Nat.mod_lt _ (by decide)
  unfold decodeOp
  dsimp only
  split
  case h_15 =>
    refine .noPrefix (.ok rfl fun _ => ?_)
    simp only [imp_false] at *
    exact congrArg (fun n => [byteOf n]) (by dsimp only; omega)
  all_goals
    rename_i hrow
    rw [byteOf_nibbles n, hrow]
    generalize n % 16 = l at hl ⊢
  case h_1 => exact decRow0_faithful hl bs p
  case h_2 => exact decRow1_faithful hl bs p
  case h_3 => exact decRow2_faithful hl bs p
  case h_4 => exact decRow3_faithful hl bs p
  case h_5 => exact .noPrefix (decRow4_faithful hl bs)
  case h_6 => exact .noPrefix (decRow5_faithful hl bs)
  case h_7 =>
    refine .halves hl (fun h8 => ?_) fun k hk hlow => ?_
    · cases l, h8 using belowEight <;> exact .noPrefix (.need2 fun w bs => .ok rfl fun _ => rfl)
    · rw [hlow, Nat.add_sub_cancel_left]
      cases p <;> exact .need1 fun o bs => .need1 fun b bs => .alu8 hk rfl rfl
  case h_8 =>
    refine .halves hl (fun h8 => ?_) fun k hk hlow => ?_
    · cases l, h8 using belowEight <;> cases p <;>
        exact .need1 fun o bs => .need1 fun d bs => .ok rfl fun _ => rfl
    · rw [hlow, Nat.add_sub_cancel_left]
      exact .noPrefix (.needField fun n hn bs => dec78_faithful hn bs hk)
  case h_9 =>
    refine .halves hl (fun h8 => ?_) fun k hk hlow => ?_
    · cases l, h8 using belowEight <;> exact .noPrefix (.need1 fun d bs => .ok rfl fun _ => rfl)
    · rw [hlow, Nat.add_sub_cancel_left]
      cases p <;> exact .needField fun n hn bs => dec88_faithful hn bs hk _
  case h_10 =>
    refine .noPrefix (.halves hl (fun h8 => .need1 fun b bs => ?_) fun k hk hlow => ?_)
    · refine .ok rfl fun o => (encode_callf_append o _ b).trans ?_
      rw [BitVec.toNat_ofNat, Nat.mod_eq_of_lt h8]
      rfl
    · rw [hlow, Nat.add_sub_cancel_left]
      exact .need1 fun o bs => .alu8 hk rfl rfl
  case h_11 =>
    refine .halves hl (fun h8 => ?_) fun k hk hlow => ?_
    · cases l, h8 using belowEight <;> cases p <;> exact .need1 fun o bs => .ok rfl fun _ => rfl
    · rw [hlow, Nat.add_sub_cancel_left]
      exact .noPrefix (.need1 fun b bs => .alu8 hk rfl rfl)
  case h_12 =>
    refine .halves hl (fun h8 => ?_) fun k hk hlow => ?_
    · cases l, h8 using belowEight <;> cases p <;> exact .need1 fun o bs => .ok rfl fun _ => rfl
    · rw [hlow]
      cases k, hk using belowEight <;> cases p <;> exact .need1 fun b bs => .ok rfl fun _ => rfl
  case h_13 | h_14 =>
    refine .halves hl (fun h8 => ?_) fun k hk hlow => ?_
    · cases l, h8 using belowEight <;> cases p <;> exact .ok rfl fun _ => rfl
    · rw [hlow]
      cases k, hk using belowEight <;> cases p <;> exact .ok rfl fun _ => rfl

/-! ## O2 -/

theorem decodeOp_byte_faithful (p : Bool) (b : Byte) (bs : List Byte) :
    Faithful (pre3C p ++ [b]) bs (decodeOp p b.toNat bs) := by
  have hb := decodeOp_faithful p b.isLt bs
  rwa [byteOf_toNat_self] at hb

theorem decodeRows_faithful (bs : List Byte) : Faithful [] bs (decodeRows bs) := by
  cases bs with
  | nil => exact .truncated
  | cons b1 bs =>
    show Faithful [b1] bs _
    rw [decodeRows_cons]
    refine .ite (fun h => ?_) fun _ => decodeOp_byte_faithful false b1 bs
    subst h
    exact .need1 fun b bs => .ite (fun _ => .unassigned) fun _ => decodeOp_byte_faithful true b bs

/-- MOV STBC, LOCATION and MOV WDM have two operand bytes after their operation code. -/
theorem decSpecial_faithful {o : Opcodes} {b1 b2 : Byte} {code : Byte × Byte} {k : Byte → Byte → Instr}
    {bs rest : List Byte} {i : Instr} (hwf : ∀ b3 b4, (k b3 b4).wf = true)
    (henc : ∀ b3 b4, encode o (k b3 b4) = [code.1, code.2, b3, b4]) (hcode : (b1, b2) = code)
    (h : decSpecial k bs = .ok i rest) : i.wf = true ∧ encode o i ++ rest = b1 :: b2 :: bs := by
  subst hcode
  match bs with
  | [] | [_] => cases h
  | b3 :: b4 :: bs =>
    cases h
    exact ⟨hwf b3 b4, congrArg (· ++ rest) (henc b3 b4)⟩

/-- Settles O2: the operation codes of R194 are read before the rows, whose answers are faithful. -/
theorem decodeThenEncode : Obligations.DecodeThenEncode := by
  intro o bs rest i h
  match bs with
  | [] | [_] => exact decodeRows_faithful _ o i rest h
  | b1 :: b2 :: bs =>
    rw [decode_cons_cons] at h
    split at h
    case isTrue hcode => exact decSpecial_faithful (fun _ _ => rfl) (fun _ _ => rfl) hcode h
    split at h
    case isFalse.isTrue hcode => exact decSpecial_faithful (fun _ _ => rfl) (fun _ _ => rfl) hcode h
    split at h
    case isFalse.isFalse.isTrue hcode => exact decSpecial_faithful (fun _ _ => rfl) (fun _ _ => rfl) hcode h
    exact decodeRows_faithful _ o i rest h

end Sys2Proof
end
